-- ==== Sys2Proof/Word.lean ====
section
/-! DEFINITION. The word types of the block: bytes, 16-bit words, 7-bit bus addresses (00_scope.md R8). -/

namespace Sys2Proof

/-- An 8-bit unsigned value (R8). -/
abbrev Byte := BitVec 8

/-- A 16-bit unsigned value: a host word, a bus command word or a raw sensor word (R8). -/
abbrev Word := BitVec 16

/-- An address of the I2C device-address space (20_memory.md R29). -/
abbrev Addr7 := BitVec 7

end Sys2Proof
end

