-- ==== Sys2Proof/Config.lean ====
section
/-! DEFINITION. What the spec fixes for the block (00_scope.md R6, 10_state.md R21), the shape of what the
transport may answer, and the values the spec leaves open (00_scope.md R7). -/

namespace Sys2Proof

/-- What one `BusWrite` meets (42_sensor_transactions.md R81). -/
inductive WriteReply where
  /-- The transport sent the word and reported no failure. -/
  | done
  /-- The transport reported a failure of this kind (TRANSPORT_FAULT_KIND, open: log 7). -/
  | failed (kind : Nat)
  /-- The primitive never completes (R81, I7: log 5). -/
  | never
deriving DecidableEq, Repr, Inhabited

/-- What one `BusRead` meets (R81, R83). -/
inductive ReadReply where
  /-- The bytes the device returned; their number need not be the number asked for (R36). -/
  | bytes (bs : List Byte)
  /-- The transport reported a failure of this kind. -/
  | failed (kind : Nat)
  /-- The primitive never completes (R81, I7). -/
  | never
deriving DecidableEq, Repr, Inhabited

/-- What one `Delay` meets: it never fails (R81) and has no upper bound (R84). -/
inductive DelayReply where
  /-- At least the requested time passed. -/
  | elapsed
  /-- The primitive never completes (R81; log 5). -/
  | never
deriving DecidableEq, Repr, Inhabited

namespace Config

/-- `DEV_ADDR`, the sensor's 7-bit bus address (R21, R48). -/
def devAddr : Addr7 := 0x62

/-- `CRC_POLY`, x^8 + x^5 + x^4 + 1 with x^8 implicit (R6). -/
def crcPoly : Byte := 0x31

/-- `CRC_INIT` (R6). -/
def crcInit : Byte := 0xFF

/-- `CMD_START`, the start periodic measurement command (R46). -/
def cmdStart : Word := 0x21B1

/-- `CMD_READ`, the read measurement command (R46). -/
def cmdRead : Word := 0xEC05

/-- `RESP_LEN`, the bytes of one Measurement Response (R6). -/
def respLen : Nat := 9

/-- `N_WORDS`, the checksummed words of one response (R6). -/
def nWords : Nat := 3

/-- `SETTLE_MS`, the settling delay SNS.START requests (R6, R86). -/
def settleMs : Nat := 500

/-- `CO2_INVALID`, the CO₂ sentinel (R6). -/
def co2Invalid : Int := -1

/-- Free value: what the n-th primitive asked since power-on meets if it is a `BusWrite` no scripted reply is
left for (R81; log 3). -/
opaque freeWrite : Nat → WriteReply

/-- Free value: what the n-th primitive meets if it is a `BusRead` no scripted reply is left for: RESP_ORACLE
(R7, R83; log 3). -/
opaque freeRead : Nat → ReadReply

/-- Free value: what the n-th primitive meets if it is a `Delay` no scripted reply is left for (R81; log 3). -/
opaque freeDelay : Nat → DelayReply

/-- Free value: the sign bit of NAN_OUT (R7, R98; log 8). -/
opaque nanSign : Bool

/-- Free value: the fraction field of NAN_OUT less one, so that every nonzero fraction is possible (R98; log 8). -/
opaque nanFraction : Fin (4503599627370494 + 1)

end Config

end Sys2Proof
end

