-- ==== Sys2Proof/Machine/State.lean ====
section
/-! DEFINITION. The state of the block (10_state.md), the reasons a step can stop, and the state after reset
(70_reset_and_hazards.md R115). -/

namespace Sys2Proof.Machine

/-- An external event, recorded when its primitive completes (10_state.md R19). -/
inductive Event where
  /-- `W(addr7, w16)`: one `write_word`. -/
  | write (addr : Addr7) (w : Word)
  /-- `R(addr7, n, bytes)`: one `read_bytes` with what it returned. -/
  | read (addr : Addr7) (n : Nat) (bytes : List Byte)
  /-- `D(ms)`: one `delay`. -/
  | delay (ms : Nat)
deriving DecidableEq, Repr

/-- A temperature or humidity output: the exact rational or the not-a-number sentinel (42_sensor_transactions.md
R97, R98). -/
inductive Reading where
  | value (q : Rat)
  | notANumber
deriving DecidableEq, Repr

/-- The output of an operation that ended in Ok (00_scope.md R12, 10_state.md R22). -/
inductive Output where
  /-- `Ok()`. -/
  | empty
  /-- CRC.READ's byte (R66). -/
  | byte (b : Byte)
  /-- CHK.WORD's raw word and validity bit (R76, R24). -/
  | word (raw : Word) (valid : Bool)
  /-- SNS.READ_CO2's integer (R92). -/
  | co2 (ppm : Int)
  /-- SNS.READ_TEMP's or SNS.READ_HUM's reading (R93, R94). -/
  | real (r : Reading)
deriving DecidableEq, Repr

/-- The operations AccUninitialised names (60_exceptions.md R101). -/
inductive EngineOp where
  | update
  | read
deriving DecidableEq, Repr

/-- The failure kind of a TransportFault: ShortRead, or a kind of the open set TRANSPORT_FAULT_KIND (R102; log 7). -/
inductive FailKind where
  | shortRead
  | reported (kind : Nat)
deriving DecidableEq, Repr

/-- The phase and the argument of a TransportFault (R102): the command word of a write or the count of a read. -/
inductive BusPhase where
  | write (w : Word)
  | read (count : Nat)
deriving DecidableEq, Repr

/-- What `fault` records: a fault code with its information, or a refused word (10_state.md R20, 60_exceptions.md R104). -/
inductive FaultRecord where
  /-- Code 1. -/
  | transport (kind : FailKind) (addr : Addr7) (phase : BusPhase)
  /-- Code 2. -/
  | accUninitialised (op : EngineOp)
  /-- Code 3. -/
  | noResponse (k : BitVec 2)
  /-- Code 4. -/
  | refused (w : Word)
deriving DecidableEq, Repr

/-- The state of the block, with the parameters of its step (R25) and the records of its run. -/
structure State where
  /-- The engine accumulator; `none` is the spec's ⊥ (R15). -/
  acc : Option Byte
  /-- The response buffer: (offset, byte) cells in canonical form; an unlisted offset has no value (R17, R30; log 2). -/
  buf : List Host.Cell
  /-- `buf_valid` (R18). -/
  bufValid : Bool
  /-- The external events since reset, oldest first (R19). -/
  trace : List Event
  /-- The first fault or refusal since reset (R20). -/
  fault : Option FaultRecord
  /-- The index of the next host word (R23). -/
  pc : Nat
  /-- The program P, a parameter of the step (R23, R25; log 1). -/
  program : List Word
  /-- What the next bus writes meet, a parameter of the step (R25, R81; log 3). -/
  writeReplies : List WriteReply
  /-- What the next bus reads meet, a parameter of the step (R25, R83; log 3). -/
  readReplies : List ReadReply
  /-- What the next delays meet, a parameter of the step (R81; log 3). -/
  delayReplies : List DelayReply
  /-- The primitives asked since power-on: the index of the free values (log 3). -/
  draws : Nat
  /-- The Ok outputs since reset, oldest first (R12, R118; log 4). -/
  outputs : List Output
  /-- A primitive was started and never completes (R81, I7; log 5). -/
  stuck : Bool
deriving DecidableEq, Repr

/-- Why the machine has no further step. Only `step` raises one; the meanings end in next states. -/
inductive Fault where
  /-- `fault` is set, so no host operation has a step (R20, R100). Raised by `step`. Safe: the spec stops here too. -/
  | stopped
  /-- A primitive never completes, so its operation has no further step (R81, I7). Raised by `step`. Safe: the spec
  stops here too. -/
  | neverCompletes
deriving DecidableEq, Repr

/-- Why a step gives no meaning. -/
inductive Refusal where
  /-- An instruction not modelled yet. Raised by no arm of `exec`. Safe. -/
  | notModelled (mnemonic : String)
  /-- The program has no word at `pc`: the run has ended (R118). Raised by `step`. Safe: nothing is left to run. -/
  | endOfProgram
deriving DecidableEq, Repr

/-- The block right after reset (R115), with no program loaded (log 1), no scripted reply (log 3) and nothing recorded (log 4, log 5). -/
def State.reset : State where
  acc := none
  buf := []
  bufValid := false
  trace := []
  fault := none
  pc := 0
  program := []
  writeReplies := []
  readReplies := []
  delayReplies := []
  draws := 0
  outputs := []
  stuck := false

end Sys2Proof.Machine
end

