-- ==== Sys2Proof/Machine/Ops.lean ====
section
/-! DEFINITION. The named operations on the state: the response buffer's cells, one update per field, the raising
of a fault, the end of an operation, reset, and the three external primitives (42_sensor_transactions.md R81). -/

namespace Sys2Proof.Machine

/-! ### The response-buffer space (20_memory.md R30) -/

/-- The byte at an offset; `none` where nothing was written (10_state.md R17). -/
def Memory.read : List Host.Cell → Nat → Option Byte
  | [], _ => none
  | c :: m, a => if c.1 = a then some c.2 else Memory.read m a

/-- `buf[a] <- v`, keeping the offsets strictly rising. -/
def Memory.write : List Host.Cell → Nat → Byte → List Host.Cell
  | [], a, v => [(a, v)]
  | c :: m, a, v =>
    if a < c.1 then (a, v) :: c :: m
    else if a = c.1 then (a, v) :: m
    else c :: Memory.write m a v

/-- `for i in 0..n-1: buf[a+i] <- bytes[i]` (R87). -/
def Memory.fill : List Host.Cell → Nat → List Byte → List Host.Cell
  | m, _, [] => m
  | m, a, b :: bs => Memory.fill (Memory.write m a b) (a + 1) bs

/-- The canonical form: offsets strictly rise and lie in 0 to 8 (R30). No entry equals what an unlisted offset
reads as, since that is no value. -/
def Memory.wf : List Host.Cell → Bool
  | [] => true
  | [c] => decide (c.1 < Config.respLen)
  | c :: d :: m => decide (c.1 < d.1) && Memory.wf (d :: m)

/-- Every offset of the buffer has a value. -/
def Memory.full (m : List Host.Cell) : Bool :=
  (List.range Config.respLen).all fun i => (Memory.read m i).isSome

/-! ### One update per field -/

/-- `acc <- v` (R15). -/
def State.setAcc (s : State) (v : Byte) : State := { s with acc := some v }

/-- All bytes of a response written together (R17). -/
def State.fillBuf (s : State) (bs : List Byte) : State := { s with buf := Memory.fill s.buf 0 bs }

/-- `buf_valid <- v` (R18). -/
def State.setBufValid (s : State) (v : Bool) : State := { s with bufValid := v }

/-- `trace <- trace ++ [e]` (R19, R81). -/
def State.record (s : State) (e : Event) : State := { s with trace := s.trace ++ [e] }

/-- A primitive that never completes leaves the block with no further step (R81, I7). -/
def State.setStuck (s : State) : State := { s with stuck := true }

/-- TAKING A FAULT: `raise F(info)` sets `fault` and nothing else; pc stays (60_exceptions.md R100, R107). There is
no return from a fault but reset (R108). A refused word is recorded the same way (R103). -/
def State.raise (s : State) (f : FaultRecord) : State := { s with fault := some f }

/-- `return Ok(o)`: the output is returned and pc advances by one (10_state.md R23). -/
def State.complete (s : State) (o : Output) : State :=
  { s with outputs := s.outputs ++ [o], pc := s.pc + 1 }

/-- The code of an outcome: 0 for Ok, else the fault's (R104). -/
def outcomeCode (f : Option FaultRecord) : Nat :=
  match f with
  | none => 0
  | some (.transport _ _ _) => 1
  | some (.accUninitialised _) => 2
  | some (.noResponse _) => 3
  | some (.refused _) => 4

/-- The reset event (70_reset_and_hazards.md R115): every field at its reset value but the parameters of the step,
which are the environment's; the sensor is not reset (R116; log 13). -/
def State.resetBlock (s : State) : State :=
  { State.reset with
    program := s.program, writeReplies := s.writeReplies, readReplies := s.readReplies,
    delayReplies := s.delayReplies, draws := s.draws }

/-! ### What the environment answers (R81, R83; log 3) -/

/-- What the next bus write meets: the next scripted reply, or the free value of this draw. -/
def State.nextWrite (s : State) : WriteReply := s.writeReplies.headD (Config.freeWrite s.draws)

/-- What the next bus read meets. -/
def State.nextRead (s : State) : ReadReply := s.readReplies.headD (Config.freeRead s.draws)

/-- What the next delay meets. -/
def State.nextDelay (s : State) : DelayReply := s.delayReplies.headD (Config.freeDelay s.draws)

/-- The state after a bus write drew its reply. -/
def State.drewWrite (s : State) : State :=
  { s with writeReplies := s.writeReplies.tail, draws := s.draws + 1 }

/-- The state after a bus read drew its reply. -/
def State.drewRead (s : State) : State :=
  { s with readReplies := s.readReplies.tail, draws := s.draws + 1 }

/-- The state after a delay drew its reply. -/
def State.drewDelay (s : State) : State :=
  { s with delayReplies := s.delayReplies.tail, draws := s.draws + 1 }

/-! ### The external primitives -/

/-- How a primitive, or a sequence of them, ends. -/
inductive BusResult (α : Type) where
  /-- It completed with this answer. -/
  | completed (a : α) (s : State)
  /-- It is about to raise this fault, in this state (R81). -/
  | failed (f : FaultRecord) (s : State)
  /-- It never completes (R81, I7). -/
  | pending (s : State)

/-- One primitive after another; the first that does not complete ends the sequence (R106). -/
def BusResult.andThen {α β : Type} (r : BusResult α) (k : α → State → BusResult β) : BusResult β :=
  match r with
  | .completed a s => k a s
  | .failed f s => .failed f s
  | .pending s => .pending s

/-- `BusWrite(addr7, w16)` (R81). -/
def busWrite (addr : Addr7) (w : Word) (s : State) : BusResult Unit :=
  match s.nextWrite with
  | .done => .completed () (s.drewWrite.record (.write addr w))
  | .failed f => .failed (.transport (.reported f) addr (.write w)) s.drewWrite
  | .never => .pending s.drewWrite

/-- `BusRead(addr7, n)` (R81); a number of bytes other than n is a short read (20_memory.md R36). -/
def busRead (addr : Addr7) (n : Nat) (s : State) : BusResult (List Byte) :=
  match s.nextRead with
  | .bytes bs =>
    if bs.length = n then .completed bs (s.drewRead.record (.read addr n bs))
    else .failed (.transport .shortRead addr (.read n)) s.drewRead
  | .failed f => .failed (.transport (.reported f) addr (.read n)) s.drewRead
  | .never => .pending s.drewRead

/-- `Delay(ms)` (R81, R84): it never fails. -/
def busDelay (ms : Nat) (s : State) : BusResult Unit :=
  match s.nextDelay with
  | .elapsed => .completed () (s.drewDelay.record (.delay ms))
  | .never => .pending s.drewDelay

/-- The state in which an operation over primitives ends: what follows on completion, the raised fault, or stuck. -/
def BusResult.endState {α : Type} (r : BusResult α) (k : α → State → State) : State :=
  match r with
  | .completed a s => k a s
  | .failed f s => s.raise f
  | .pending s => s.setStuck

end Sys2Proof.Machine
end

