-- ==== Sys2Proof/Machine/BusCommand.lean ====
section
/-! DEFINITION. The two bus command words (30_encoding.md R45, R46): what the block does when it sends one. They are
no host operations, so they return no output and leave pc where it is (10_state.md R23; log 6). -/

namespace Sys2Proof.Machine

/-- BUSCMD.START_PERIODIC_MEASUREMENT: `BusWrite(DEV_ADDR, CMD_START)` (R46, 42_sensor_transactions.md R81). -/
def execBusStart (s : State) : Host.Outcome State Fault Refusal :=
  .next ((busWrite Config.devAddr Config.cmdStart s).endState fun _ s1 => s1)

/-- BUSCMD.READ_MEASUREMENT: `BusWrite(DEV_ADDR, CMD_READ)` (R46, R81). -/
def execBusRead (s : State) : Host.Outcome State Fault Refusal :=
  .next ((busWrite Config.devAddr Config.cmdRead s).endState fun _ s1 => s1)

end Sys2Proof.Machine
end

