-- ==== Sys2Proof/Machine/Crc.lean ====
section
/-! DEFINITION. The CRC-8 functions of the engine (40_crc_engine.md R59, R60, R63). -/

namespace Sys2Proof.Machine

/-- `crc_bit` (R59): one iteration of the algorithm's inner loop. The 8-bit shift drops the 9-bit intermediate's
bit 8, which R59 allows before or after the XOR. -/
def crcBit (a : Byte) : Byte :=
  if a.getLsbD 7 then (a <<< 1) ^^^ Config.crcPoly else a <<< 1

/-- `crc_bit` applied n times (00_scope.md R11). -/
def crcBits : Nat → Byte → Byte
  | 0, t => t
  | n + 1, t => crcBits n (crcBit t)

/-- `crc_byte` (R60): the whole input byte enters by XOR, then eight bit steps. -/
def crcByte (a b : Byte) : Byte := crcBits 8 (a ^^^ b)

/-- A byte sequence folded into an accumulator, in sequence order (R11, R34). -/
def crcFrom (a : Byte) (s : List Byte) : Byte := s.foldl crcByte a

/-- `crc8` (R63): the checksum of a byte sequence of any length. -/
def crc8 (s : List Byte) : Byte := crcFrom Config.crcInit s

end Sys2Proof.Machine
end

