-- ==== Sys2Proof/Machine/Engine.lean ====
section
/-! DEFINITION. The engine's operations (40_crc_engine.md R64-R66). -/

namespace Sys2Proof.Machine

/-- CRC.INIT (R64). -/
def execCrcInit (s : State) : Host.Outcome State Fault Refusal :=
  .next ((s.setAcc Config.crcInit).complete .empty)

/-- CRC.UPDATE b (R65). -/
def execCrcUpdate (b : Byte) (s : State) : Host.Outcome State Fault Refusal :=
  match s.acc with
  | none => .next (s.raise (.accUninitialised .update))
  | some a => .next ((s.setAcc (crcByte a b)).complete .empty)

/-- CRC.READ (R66). -/
def execCrcRead (s : State) : Host.Outcome State Fault Refusal :=
  match s.acc with
  | none => .next (s.raise (.accUninitialised .read))
  | some a => .next (s.complete (.byte a))

end Sys2Proof.Machine
end

