-- ==== Sys2Proof/Syntax.lean ====
section
/-! DEFINITION. The instructions: one constructor per row of spec/opcode_table.json (30_encoding.md R46, R50). -/

namespace Sys2Proof

/-- The three-format encoding space less RESP, which is data (R44): host-operation words, which a caller
gives the block, and bus command words, which the block sends to the sensor. -/
inductive Format where
  | hostop
  | buscmd
deriving DecidableEq, Repr

/-- The rows of the opcode table. -/
inductive Instr where
  /-- CRC.INIT (40_crc_engine.md R64). -/
  | crcInit
  /-- CRC.UPDATE b (R65). -/
  | crcUpdate (data : Byte)
  /-- CRC.READ (R66). -/
  | crcRead
  /-- CHK.WORD k, the 2-bit field k of R51 (41_response_parser.md R76). -/
  | chkWord (k : BitVec 2)
  /-- SNS.START (42_sensor_transactions.md R85). -/
  | snsStart
  /-- SNS.FETCH (R87). -/
  | snsFetch
  /-- SNS.READ_CO2 (R92). -/
  | snsReadCo2
  /-- SNS.READ_TEMP (R93). -/
  | snsReadTemp
  /-- SNS.READ_HUM (R94). -/
  | snsReadHum
  /-- BUSCMD.START_PERIODIC_MEASUREMENT, the command word 0x21B1 (R46). -/
  | busStart
  /-- BUSCMD.READ_MEASUREMENT, the command word 0xEC05 (R46). -/
  | busRead
deriving DecidableEq, Repr

end Sys2Proof
end

