-- ==== Sys2Proof/WellFormed.lean ====
section
/-! DEFINITION. Which instructions the encodings can say: the one check is CHK.WORD's word index (30_encoding.md R50, R53). -/

namespace Sys2Proof

/-- The index of CHK.WORD names one of the three words of a response (R50: k in 0, 1, 2). -/
def wordIndexOk (k : BitVec 2) : Bool := k != 3#2

/-- An instruction the encodings of the opcode table admit. -/
def Instr.wf : Instr → Bool
  | .crcInit => true
  | .crcUpdate _ => true
  | .crcRead => true
  | .chkWord k => wordIndexOk k
  | .snsStart => true
  | .snsFetch => true
  | .snsReadCo2 => true
  | .snsReadTemp => true
  | .snsReadHum => true
  | .busStart => true
  | .busRead => true

end Sys2Proof
end

