-- ==== Sys2Proof/Decode.lean ====
section
/-! DEFINITION. Decoding and encoding of host-operation words and bus command words (30_encoding.md R45-R53). -/

namespace Sys2Proof

/-- Why a word encodes no instruction (R53, R54). -/
inductive DecodeRefusal where
  /-- Selector 0x0 or 0xA to 0xF. -/
  | reservedSelector
  /-- `res` is not 00. -/
  | reservedField
  /-- `k` is not 00 outside CHK.WORD. -/
  | strayIndex
  /-- `data` is not 0x00 outside CRC.UPDATE. -/
  | strayData
  /-- CHK.WORD with k = 3: the response has only three words. -/
  | noSuchWord
  /-- A bus command word other than the two the block sends. -/
  | notABusCommand
deriving DecidableEq, Repr

/-- `op`, bits 15:12 of a host word (R49). -/
def opField (w : Word) : BitVec 4 := w.extractLsb' 12 4

/-- `res`, bits 11:10 (R49). -/
def resField (w : Word) : BitVec 2 := w.extractLsb' 10 2

/-- `k`, bits 9:8 (R49, R51). -/
def kField (w : Word) : BitVec 2 := w.extractLsb' 8 2

/-- `data`, bits 7:0 (R49, R51). -/
def dataField (w : Word) : Byte := w.extractLsb' 0 8

/-- A host word whose unused fields must all be zero (R49). -/
def decodePlain (w : Word) (i : Instr) : Except DecodeRefusal Instr :=
  if resField w ≠ 0#2 then .error .reservedField
  else if kField w ≠ 0#2 then .error .strayIndex
  else if dataField w ≠ 0#8 then .error .strayData
  else .ok i

/-- CRC.UPDATE uses `data`; the other fields must be zero (R49). -/
def decodeUpdate (w : Word) : Except DecodeRefusal Instr :=
  if resField w ≠ 0#2 then .error .reservedField
  else if kField w ≠ 0#2 then .error .strayIndex
  else .ok (.crcUpdate (dataField w))

/-- CHK.WORD uses `k`; the other fields must be zero, and k = 3 is refused (R49, R53). -/
def decodeChk (w : Word) : Except DecodeRefusal Instr :=
  if resField w ≠ 0#2 then .error .reservedField
  else if dataField w ≠ 0#8 then .error .strayData
  else if kField w = 3#2 then .error .noSuchWord
  else .ok (.chkWord (kField w))

/-- `decode` of R52: total on the 65536 host words. -/
def decodeHostWord (w : Word) : Except DecodeRefusal Instr :=
  if opField w = 0x1#4 then decodePlain w .crcInit
  else if opField w = 0x2#4 then decodeUpdate w
  else if opField w = 0x3#4 then decodePlain w .crcRead
  else if opField w = 0x4#4 then decodeChk w
  else if opField w = 0x5#4 then decodePlain w .snsStart
  else if opField w = 0x6#4 then decodePlain w .snsFetch
  else if opField w = 0x7#4 then decodePlain w .snsReadCo2
  else if opField w = 0x8#4 then decodePlain w .snsReadTemp
  else if opField w = 0x9#4 then decodePlain w .snsReadHum
  else .error .reservedSelector

/-- The two bus command words (R46); the block sends no other (R54). -/
def decodeBusWord (w : Word) : Except DecodeRefusal Instr :=
  if w = Config.cmdStart then .ok .busStart
  else if w = Config.cmdRead then .ok .busRead
  else .error .notABusCommand

/-- The decoder of a word of a given format (R44). A program's words are all of format `hostop` (R23). -/
def decode (f : Format) (w : Word) : Except DecodeRefusal Instr :=
  match f with
  | .hostop => decodeHostWord w
  | .buscmd => decodeBusWord w

/-- The format of an instruction's row in the opcode table (R46, R50). -/
def formatOf : Instr → Format
  | .crcInit => .hostop
  | .crcUpdate _ => .hostop
  | .crcRead => .hostop
  | .chkWord _ => .hostop
  | .snsStart => .hostop
  | .snsFetch => .hostop
  | .snsReadCo2 => .hostop
  | .snsReadTemp => .hostop
  | .snsReadHum => .hostop
  | .busStart => .buscmd
  | .busRead => .buscmd

/-- The word of an instruction, from its fields: op, res = 00, k, data (R49, R50), or its command code (R46). -/
def encode : Instr → Word
  | .crcInit => 0x1000
  | .crcUpdate b => 0x2#4 ++ 0#2 ++ 0#2 ++ b
  | .crcRead => 0x3000
  | .chkWord k => 0x4#4 ++ 0#2 ++ k ++ 0#8
  | .snsStart => 0x5000
  | .snsFetch => 0x6000
  | .snsReadCo2 => 0x7000
  | .snsReadTemp => 0x8000
  | .snsReadHum => 0x9000
  | .busStart => 0x21B1
  | .busRead => 0xEC05

/-- The bytes of a command word on the wire, high byte first (20_memory.md R32, 30_encoding.md R45). -/
def wireBytes (w : Word) : List Byte := [w.extractLsb' 8 8, w.extractLsb' 0 8]

/-- A decoded instruction, or none where the word is refused. -/
def accepted (r : Except DecodeRefusal Instr) : Option Instr :=
  match r with
  | .ok i => some i
  | .error _ => none

/-- The word whose bits are `w` in the opcode table's numbering; the table's rows have one 16-bit word, and bits
above `nbits` are zero. -/
def tableWord (nbits w : Nat) : Word := BitVec.ofNat 16 (w % 2 ^ nbits)

/-- The instruction read from a row's bits under the row's own format. The table mixes the two formats and
`nbits` and `w` do not name one; no word belongs to both, so the host-operation decoder is asked first and then
the bus-command decoder (R44, R50, R46; log 6, log 10). -/
def decodeTableWord (nbits w : Nat) : Option Instr :=
  match accepted (decode .hostop (tableWord nbits w)) with
  | some i => some i
  | none => accepted (decode .buscmd (tableWord nbits w))

end Sys2Proof
end

