-- ==== Sys2Proof/Machine/Flags.lean ====
section
/-! DEFINITION. The one flag the spec computes: the validity bit of a checked word (41_response_parser.md R73).
It is an output and never latched (10_state.md R24). -/

namespace Sys2Proof.Machine

/-- `check(hi, lo, c)` (R73): the checksum of exactly the two bytes of the word, high byte first. -/
def check (hi lo c : Byte) : Bool := crc8 [hi, lo] == c

end Sys2Proof.Machine
end

