-- ==== Sys2Proof/Machine/Operands.lean ====
section
/-! DEFINITION. The operand forms: the word index of CHK.WORD and the reads, the offsets and bytes of word k, its
raw value and its validity (30_encoding.md R47, R51; 41_response_parser.md R71-R73). -/

namespace Sys2Proof.Machine

/-- `WORD_OFF(k)` = 3k (00_scope.md R6). -/
def wordOff (k : BitVec 2) : Nat := 3 * k.toNat

/-- `CRC_OFF(k)` = 3k + 2 (R6). -/
def crcOff (k : BitVec 2) : Nat := 3 * k.toNat + 2

/-- `(zext_16(hi) << 8) | zext_16(lo)` (20_memory.md R31). -/
def bigEndian (hi lo : Byte) : Word := (hi.setWidth 16 <<< 8) ||| lo.setWidth 16

/-- `MemRead(off, 2)` of the response buffer (R31); none where a byte has no value. -/
def State.memRead2 (s : State) (off : Nat) : Option Word :=
  match Memory.read s.buf off, Memory.read s.buf (off + 1) with
  | some hi, some lo => some (bigEndian hi lo)
  | _, _ => none

/-- `v_k` of the buffered response (R73, R75): only the three bytes of word k are read. -/
def State.checkWord (s : State) (k : BitVec 2) : Option Bool :=
  match Memory.read s.buf (wordOff k), Memory.read s.buf (wordOff k + 1), Memory.read s.buf (crcOff k) with
  | some hi, some lo, some c => some (check hi lo c)
  | _, _, _ => none

/-- The raw value and the validity bit of word k (R72, R73); none where a byte has no value. -/
def State.parseWord (s : State) (k : BitVec 2) : Option (Word × Bool) :=
  match s.memRead2 (wordOff k), s.checkWord k with
  | some raw, some v => some (raw, v)
  | _, _ => none

end Sys2Proof.Machine
end

