-- ==== Sys2Proof/Machine/Parser.lean ====
section
/-! DEFINITION. The response parser's operation (41_response_parser.md R76). -/

namespace Sys2Proof.Machine

/-- CHK.WORD k (R76). With k = 3 no word encodes it, and the word 0x4300 is refused (R53, R106; log 11). A byte of
`buf` that has no value is no response either (R101; log 2). -/
def execChkWord (k : BitVec 2) (s : State) : Host.Outcome State Fault Refusal :=
  if wordIndexOk k then
    if s.bufValid then
      match s.parseWord k with
      | some (raw, v) => .next (s.complete (.word raw v))
      | none => .next (s.raise (.noResponse k))
    else .next (s.raise (.noResponse k))
  else .next (s.raise (.refused (encode (.chkWord k))))

end Sys2Proof.Machine
end

