-- ==== Sys2Proof/Machine/Convert.lean ====
section
/-! DEFINITION. From a checked word to a reading or its sentinel, and the register forms of the outputs
(42_sensor_transactions.md R89-R91, R97, R98). -/

namespace Sys2Proof.Machine

/-- `co2_value` (R89). -/
def co2Value (raw : Word) : Int := raw.toNat

/-- `temp_value` (R90), in its form over one denominator: (175 · raw - 2949120) / 65536. -/
def tempValue (raw : Word) : Rat := mkRat (175 * (raw.toNat : Int) - 2949120) 65536

/-- `hum_value` (R91), in its reduced form: 25 · raw / 16384. -/
def humValue (raw : Word) : Rat := mkRat (25 * (raw.toNat : Int)) 16384

/-- The output of SNS.READ_CO2 for a word and its validity (R92). -/
def co2Output (raw : Word) (v : Bool) : Output :=
  .co2 (if v then co2Value raw else Config.co2Invalid)

/-- The output of SNS.READ_TEMP (R93). -/
def tempOutput (raw : Word) (v : Bool) : Output :=
  .real (if v then .value (tempValue raw) else .notANumber)

/-- The output of SNS.READ_HUM (R94). -/
def humOutput (raw : Word) (v : Bool) : Output :=
  .real (if v then .value (humValue raw) else .notANumber)

/-! ### Register forms (R98) -/

/-- The 32-bit two's-complement form of a CO₂ output. -/
def co2Register (ppm : Int) : BitVec 32 := BitVec.ofInt 32 ppm

/-- The binary64 form of a rational whose denominator is a power of two and whose numerator is below 2^53 in
magnitude: sign, exponent biased by 1023, and the 52 fraction bits below the leading one. Zero is +0.0. -/
def binary64 (q : Rat) : BitVec 64 :=
  if q.num = 0 then 0
  else
    let m := q.num.natAbs
    let e := Nat.log2 m
    BitVec.ofBool (decide (q.num < 0)) ++ BitVec.ofNat 11 (1023 + e - Nat.log2 q.den) ++
      BitVec.ofNat 52 ((m - 2 ^ e) * 2 ^ (52 - e))

/-- NAN_OUT: some NaN pattern, exponent all ones and a nonzero fraction (R7, R98; log 8). -/
def nanPattern : BitVec 64 :=
  BitVec.ofBool Config.nanSign ++ 0x7FF#11 ++ BitVec.ofNat 52 (Config.nanFraction.val + 1)

/-- Whether a binary64 pattern is a NaN, which is all a claim may ask of the sentinel (R98). -/
def isNaN (b : BitVec 64) : Bool :=
  b.extractLsb' 52 11 == 0x7FF#11 && b.extractLsb' 0 52 != 0#52

/-- The binary64 form of a temperature or humidity output. -/
def realRegister (r : Reading) : BitVec 64 :=
  match r with
  | .value q => binary64 q
  | .notANumber => nanPattern

end Sys2Proof.Machine
end

