-- ==== Sys2Proof/Machine/Sequencer.lean ====
section
/-! DEFINITION. The transaction sequencer's operations (42_sensor_transactions.md R85-R94). -/

namespace Sys2Proof.Machine

/-- A failing primitive of `fetch_body` clears `buf_valid` before the fault is raised (R88). -/
def clearOnFailure {α : Type} (r : BusResult α) : BusResult α :=
  match r with
  | .completed a s => .completed a s
  | .failed f s => .failed f (s.setBufValid false)
  | .pending s => .pending s

/-- The write and the read of `fetch_body`, with no event between them (R87, 70_reset_and_hazards.md R124). -/
def fetchTransaction (s : State) : BusResult (List Byte) :=
  (busWrite Config.devAddr Config.cmdRead s).andThen fun _ s1 => busRead Config.devAddr Config.respLen s1

/-- `fetch_body` (R87, R88). -/
def fetchBody (s : State) : BusResult Unit :=
  (clearOnFailure (fetchTransaction s)).andThen fun bs s1 => .completed () ((s1.fillBuf bs).setBufValid true)

/-- What SNS.READ_* does after `fetch_body`: word k is parsed, `buf_valid` is cleared, and the reading is returned
(R92-R94). The last case does not arise, since `fetch_body` has just written all nine bytes. -/
def finishRead (k : BitVec 2) (output : Word → Bool → Output) (s : State) : State :=
  match s.parseWord k with
  | some (raw, v) => (s.setBufValid false).complete (output raw v)
  | none => (s.setBufValid false).raise (.noResponse k)

/-- SNS.START (R85): the command, then the settling delay, which is not performed if the write fails (R106). -/
def execSnsStart (s : State) : Host.Outcome State Fault Refusal :=
  .next (((busWrite Config.devAddr Config.cmdStart s).andThen fun _ s1 => busDelay Config.settleMs s1).endState
    fun _ s2 => s2.complete .empty)

/-- SNS.FETCH (R87). -/
def execSnsFetch (s : State) : Host.Outcome State Fault Refusal :=
  .next ((fetchBody s).endState fun _ s1 => s1.complete .empty)

/-- SNS.READ_CO2 (R92). -/
def execSnsReadCo2 (s : State) : Host.Outcome State Fault Refusal :=
  .next ((fetchBody s).endState fun _ s1 => finishRead 0 co2Output s1)

/-- SNS.READ_TEMP (R93). -/
def execSnsReadTemp (s : State) : Host.Outcome State Fault Refusal :=
  .next ((fetchBody s).endState fun _ s1 => finishRead 1 tempOutput s1)

/-- SNS.READ_HUM (R94). -/
def execSnsReadHum (s : State) : Host.Outcome State Fault Refusal :=
  .next ((fetchBody s).endState fun _ s1 => finishRead 2 humOutput s1)

end Sys2Proof.Machine
end

