-- ==== Sys2Proof/Machine/Dispatch.lean ====
section
/-! DEFINITION. One arm per instruction of the opcode table. -/

namespace Sys2Proof.Machine

/-- The effect of one instruction. -/
def exec (i : Instr) (s : State) : Host.Outcome State Fault Refusal :=
  match i with
  | .crcInit => Sys2Proof.Machine.execCrcInit s
  | .crcUpdate data => Sys2Proof.Machine.execCrcUpdate data s
  | .crcRead => Sys2Proof.Machine.execCrcRead s
  | .chkWord k => Sys2Proof.Machine.execChkWord k s
  | .snsStart => Sys2Proof.Machine.execSnsStart s
  | .snsFetch => Sys2Proof.Machine.execSnsFetch s
  | .snsReadCo2 => Sys2Proof.Machine.execSnsReadCo2 s
  | .snsReadTemp => Sys2Proof.Machine.execSnsReadTemp s
  | .snsReadHum => Sys2Proof.Machine.execSnsReadHum s
  | .busStart => Sys2Proof.Machine.execBusStart s
  | .busRead => Sys2Proof.Machine.execBusRead s

end Sys2Proof.Machine
end

