-- ==== Sys2Proof/Machine/Fetch.lean ====
section
/-! DEFINITION. Which host word the caller issues next, and whether one can be issued at all (10_state.md R20, R23). -/

namespace Sys2Proof.Machine

/-- What the step finds. -/
inductive Fetched where
  /-- A host word that decodes. -/
  | instr (i : Instr)
  /-- A host word that does not (30_encoding.md R53). -/
  | badWord (w : Word)
  /-- The program has no word at `pc` (70_reset_and_hazards.md R118). -/
  | ended
  /-- `fault` is set (R20). -/
  | stopped
  /-- A primitive never completes (42_sensor_transactions.md R81). -/
  | waiting
deriving DecidableEq, Repr

/-- A program's word under the host-operation decoder (R52). -/
def fetchWord (w : Word) : Fetched :=
  match decode .hostop w with
  | .ok i => .instr i
  | .error _ => .badWord w

/-- The next host word, if the block has a step at all. -/
def fetch (s : State) : Fetched :=
  if s.fault.isSome then .stopped
  else if s.stuck then .waiting
  else
    match s.program[s.pc]? with
    | some w => fetchWord w
    | none => .ended

/-- `Refused(w)`: recorded in `fault`, and nothing else happens (60_exceptions.md R103). -/
def refuseWord (w : Word) (s : State) : State := s.raise (.refused w)

/-- A program whose word at index n is `w`: P with that word replaced, or continued up to it. -/
def placeWord (p : List Word) (n : Nat) (w : Word) : List Word :=
  p.take n ++ List.replicate (n - p.length) 0 ++ [w] ++ p.drop (n + 1)

end Sys2Proof.Machine
end

