-- ==== Sys2Proof/Machine/Step.lean ====
section
/-! DEFINITION. One step: the caller issues the next host word (10_state.md R20, R23; 60_exceptions.md R100, R103). -/

namespace Sys2Proof.Machine

/-- One step of the block. -/
def step (s : State) : Host.Outcome State Fault Refusal :=
  match fetch s with
  | .instr i => exec i s
  | .badWord w => .next (refuseWord w s)
  | .ended => .refused .endOfProgram
  | .stopped => .fault .stopped
  | .waiting => .fault .neverCompletes

/-- `s` with the host word whose bits are `w` placed where `step` takes its next word. This stands for the caller's
load of a program (log 1); a stop is lifted, since a stopped block takes no word. -/
def State.withFetchWord (s : State) (nbits w : Nat) : State :=
  { s with program := placeWord s.program s.pc (tableWord nbits w), fault := none, stuck := false }

end Sys2Proof.Machine
end

