-- ==== Sys2Proof/Machine/Asm.lean ====
section
/-! DEFINITION. The assembler lines and the pseudo-instruction of the spec (30_encoding.md R56, R57). A line is given
as its list of characters (log 14). -/

namespace Sys2Proof.Machine

/-- The expansion of `CRC.COMPUTE b0, ..., b(n-1)` into n + 2 operations (R57). -/
def expandCompute (bs : List Byte) : List Instr := .crcInit :: (bs.map .crcUpdate ++ [.crcRead])

/-- Why a line does not assemble (R56). -/
inductive AsmError where
  /-- No mnemonic of R56. -/
  | unknownMnemonic
  /-- An operand that is missing, left over, misspelt or out of range. -/
  | badOperand
deriving DecidableEq, Repr

/-- The line without its comment: `;` starts one that runs to the end (R56). -/
def stripComment (line : List Char) : List Char := line.takeWhile (· ≠ ';')

/-- A finished token in front of the rest, if it has any character. -/
def putToken (cur : List Char) (rest : List (List Char)) : List (List Char) :=
  if cur.isEmpty then rest else cur :: rest

/-- The tokens of a line: blanks separate, a comma stands alone. -/
def tokensFrom : List Char → List Char → List (List Char)
  | cur, [] => putToken cur []
  | cur, c :: cs =>
    if c = ' ' ∨ c = '\t' then putToken cur (tokensFrom [] cs)
    else if c = ',' then putToken cur ([','] :: tokensFrom [] cs)
    else tokensFrom (cur ++ [c]) cs

/-- Where a character stands in a list, counted from 0. -/
def placeIn (c : Char) : List Char → Option Nat
  | [] => none
  | d :: ds => if d = c then some 0 else (placeIn c ds).map (· + 1)

/-- The digits of R56's decimal literals, in order of value. -/
def decimalDigits : List Char := ['0', '1', '2', '3', '4', '5', '6', '7', '8', '9']

/-- The digits that follow them in R56's hex literals, as R56 writes them. -/
def upperDigits : List Char := ['A', 'B', 'C', 'D', 'E', 'F']

/-- The same digits in the other case, which R56 does not exclude (log 14). -/
def lowerDigits : List Char := ['a', 'b', 'c', 'd', 'e', 'f']

/-- The value of a digit is its place among the sixteen. -/
def digitValue (c : Char) : Option Nat :=
  match placeIn c (decimalDigits ++ upperDigits) with
  | some v => some v
  | none => placeIn c (decimalDigits ++ lowerDigits)

/-- The number a list of digits says in a base; none where a digit is not one of the base. -/
def digitsValue (base : Nat) : Nat → List Char → Option Nat
  | acc, [] => some acc
  | acc, c :: cs =>
    match digitValue c with
    | some d => if d < base then digitsValue base (acc * base + d) cs else none
    | none => none

/-- A number literal: hex after `0x`, else decimal; at least one digit. -/
def literalValue : List Char → Option Nat
  | '0' :: 'x' :: c :: cs => digitsValue 16 0 (c :: cs)
  | c :: cs => digitsValue 10 0 (c :: cs)
  | [] => none

/-- A byte literal, in 0 to 255 (R56). -/
def byteOperand (t : List Char) : Option Byte :=
  match literalValue t with
  | some n => if n < 256 then some (BitVec.ofNat 8 n) else none
  | none => none

/-- The operand of CHK.WORD: 0, 1 or 2, or CO2, TEMP or HUM (R56). -/
def indexOperand (t : List Char) : Option (BitVec 2) :=
  if t = ['0'] ∨ t = ['C', 'O', '2'] then some 0
  else if t = ['1'] ∨ t = ['T', 'E', 'M', 'P'] then some 1
  else if t = ['2'] ∨ t = ['H', 'U', 'M'] then some 2
  else none

/-- One or more byte literals with commas between them. -/
def byteOperands : List (List Char) → Option (List Byte)
  | [] => none
  | [t] => (byteOperand t).map fun b => [b]
  | t :: c :: ts =>
    if c = [','] then
      match byteOperand t, byteOperands ts with
      | some b, some bs => some (b :: bs)
      | _, _ => none
    else none

/-- A mnemonic that takes no operand. -/
def noOperand (i : Instr) (ops : List (List Char)) : Except AsmError (List Word) :=
  if ops.isEmpty then .ok [encode i] else .error .badOperand

/-- CRC.UPDATE with its byte. -/
def updateLine (ops : List (List Char)) : Except AsmError (List Word) :=
  match ops with
  | [t] =>
    match byteOperand t with
    | some b => .ok [encode (.crcUpdate b)]
    | none => .error .badOperand
  | _ => .error .badOperand

/-- CHK.WORD with its index. -/
def chkLine (ops : List (List Char)) : Except AsmError (List Word) :=
  match ops with
  | [t] =>
    match indexOperand t with
    | some k => .ok [encode (.chkWord k)]
    | none => .error .badOperand
  | _ => .error .badOperand

/-- CRC.COMPUTE with its bytes, none allowed (R57). -/
def computeLine (ops : List (List Char)) : Except AsmError (List Word) :=
  match ops with
  | [] => .ok ((expandCompute []).map encode)
  | _ :: _ =>
    match byteOperands ops with
    | some bs => .ok ((expandCompute bs).map encode)
    | none => .error .badOperand

/-- The words of a tokenised line: none for an empty one, one for an operation, n + 2 for CRC.COMPUTE (R56, R57). -/
def assembleTokens : List (List Char) → Except AsmError (List Word)
  | [] => .ok []
  | m :: ops =>
    if m = ['C', 'R', 'C', '.', 'I', 'N', 'I', 'T'] then noOperand .crcInit ops
    else if m = ['C', 'R', 'C', '.', 'U', 'P', 'D', 'A', 'T', 'E'] then updateLine ops
    else if m = ['C', 'R', 'C', '.', 'R', 'E', 'A', 'D'] then noOperand .crcRead ops
    else if m = ['C', 'H', 'K', '.', 'W', 'O', 'R', 'D'] then chkLine ops
    else if m = ['S', 'N', 'S', '.', 'S', 'T', 'A', 'R', 'T'] then noOperand .snsStart ops
    else if m = ['S', 'N', 'S', '.', 'F', 'E', 'T', 'C', 'H'] then noOperand .snsFetch ops
    else if m = ['S', 'N', 'S', '.', 'R', 'E', 'A', 'D', '_', 'C', 'O', '2'] then noOperand .snsReadCo2 ops
    else if m = ['S', 'N', 'S', '.', 'R', 'E', 'A', 'D', '_', 'T', 'E', 'M', 'P'] then noOperand .snsReadTemp ops
    else if m = ['S', 'N', 'S', '.', 'R', 'E', 'A', 'D', '_', 'H', 'U', 'M'] then noOperand .snsReadHum ops
    else if m = ['C', 'R', 'C', '.', 'C', 'O', 'M', 'P', 'U', 'T', 'E'] then computeLine ops
    else .error .unknownMnemonic

/-- The words of one line (R56). -/
def assembleLine (line : List Char) : Except AsmError (List Word) :=
  assembleTokens (tokensFrom [] (stripComment line))

/-- The words of a listing, one line after another. -/
def assemble : List (List Char) → Except AsmError (List Word)
  | [] => .ok []
  | l :: ls =>
    match assembleLine l, assemble ls with
    | .ok ws, .ok rest => .ok (ws ++ rest)
    | .error e, _ => .error e
    | .ok _, .error e => .error e

end Sys2Proof.Machine
end

