-- ==== Sys2Proof/Safety.lean ====
section
/-! DEFINITION. The terms claims are stated in: when the block can step, how a run ends, what the trace says about
transactions and time, the states the rules allow, the printed CRC table, GF(2) polynomials, and the value of a
binary64 pattern. -/

namespace Sys2Proof.Safety

open Sys2Proof.Machine

/-! ### Running and ending (70_reset_and_hazards.md R118) -/

/-- No fault is recorded and no primitive hangs: a host operation has a step (10_state.md R20, 42_sensor_transactions.md R81). -/
def running (s : State) : Bool := s.fault.isNone && !s.stuck

/-- The run has ended normally: pc = m and fault = none (R118). -/
def endsNormally (s : State) : Bool := running s && s.pc == s.program.length

/-- The result of a run that ended normally (R118). -/
structure RunResult where
  outputs : List Output
  trace : List Event
  acc : Option Byte
  buf : List Host.Cell
  bufValid : Bool
deriving DecidableEq, Repr

/-- The result a state holds (R118). -/
def runResult (s : State) : RunResult where
  outputs := s.outputs
  trace := s.trace
  acc := s.acc
  buf := s.buf
  bufValid := s.bufValid

/-- Instructions issued one after another, as long as the block can step (R40). -/
def execSeq : List Instr → State → Host.Outcome State Fault Refusal
  | [], s => .next s
  | i :: is, s =>
    match exec i s with
    | .next t => if running t then execSeq is t else .next t
    | .fault r => .fault r
    | .refused r => .refused r

/-! ### What the trace says (10_state.md R19) -/

/-- The event is a delay of at least `ms`. -/
def delaysFor (ms : Nat) : Event → Bool
  | .write _ _ => false
  | .read _ _ _ => false
  | .delay d => decide (ms ≤ d)

/-- At least `ms` milliseconds passed between events i and j: a `D` of at least that lies between them
(42_sensor_transactions.md R84). -/
def elapsedAtLeast (t : List Event) (i j ms : Nat) : Bool :=
  ((t.take j).drop (i + 1)).any (delaysFor ms)

/-- The event pair of a completed SNS.START: the command and its settling delay (R85, R86). -/
def startPair (e d : Event) : Bool :=
  e == .write Config.devAddr Config.cmdStart && d == .delay Config.settleMs

/-- The event pair of a completed `fetch_body`: the command and the read of nine bytes (R87). -/
def fetchPair (e r : Event) : Bool :=
  e == .write Config.devAddr Config.cmdRead &&
    match r with
    | .read a n bs => a == Config.devAddr && n == Config.respLen && bs.length == Config.respLen
    | .write _ _ => false
    | .delay _ => false

/-- The trace is a sequence of whole transactions (20_memory.md R40). -/
def wholeTransactions : List Event → Bool
  | [] => true
  | [_] => false
  | e :: d :: t => (startPair e d || fetchPair e d) && wholeTransactions t

/-- A command word on the bus with what follows it still missing. -/
def openWrite (e : Event) : Bool :=
  e == .write Config.devAddr Config.cmdStart || e == .write Config.devAddr Config.cmdRead

/-- Whole transactions, then at most one command word whose operation did not complete. -/
def brokenOff : List Event → Bool
  | [] => true
  | [e] => openWrite e
  | e :: d :: t => (startPair e d || fetchPair e d) && brokenOff t

/-- The bytes an event read, if it is a read. -/
def readBytes : Event → Option (List Byte)
  | .write _ _ => none
  | .read _ _ bs => some bs
  | .delay _ => none

/-- The bytes of the last read event of the trace, if there is one. -/
def lastRead (t : List Event) : Option (List Byte) := (t.filterMap readBytes).getLast?

/-! ### Where a fetch faults (42_sensor_transactions.md R88) -/

/-- What the instruction does where `fetch_body` faults. A failed write issues no read; a failed or short read writes
no buffer; both clear `buf_valid` before the fault, and nothing else changes. -/
def FetchFaults (i : Instr) : Prop :=
  (∀ (s : State) (f : Nat), s.nextWrite = .failed f → exec i s = .next { s with
    bufValid := false, fault := some (.transport (.reported f) 0x62 (.write 0xEC05)),
    writeReplies := s.writeReplies.tail, draws := s.draws + 1 }) ∧
  (∀ (s : State) (f : Nat), s.nextWrite = .done → s.drewWrite.nextRead = .failed f → exec i s = .next { s with
    bufValid := false, fault := some (.transport (.reported f) 0x62 (.read 9)),
    trace := s.trace ++ [.write 0x62 0xEC05],
    writeReplies := s.writeReplies.tail, readReplies := s.readReplies.tail, draws := s.draws + 2 }) ∧
  (∀ (s : State) (bs : List Byte), s.nextWrite = .done → s.drewWrite.nextRead = .bytes bs → bs.length ≠ 9 →
    exec i s = .next { s with
      bufValid := false, fault := some (.transport .shortRead 0x62 (.read 9)),
      trace := s.trace ++ [.write 0x62 0xEC05],
      writeReplies := s.writeReplies.tail, readReplies := s.readReplies.tail, draws := s.draws + 2 })

/-! ### The states the rules allow -/

/-- The information a fault can hold (60_exceptions.md R101-R104). -/
def legalFault : FaultRecord → Bool
  | .transport .shortRead a (.read n) => a == Config.devAddr && n == Config.respLen
  | .transport .shortRead _ (.write _) => false
  | .transport (.reported _) a (.read n) => a == Config.devAddr && n == Config.respLen
  | .transport (.reported _) a (.write w) => a == Config.devAddr && (w == Config.cmdStart || w == Config.cmdRead)
  | .accUninitialised _ => true
  | .noResponse k => k != 3
  | .refused w => (accepted (decode .hostop w)).isNone

/-- The values an output can have (42_sensor_transactions.md R97). -/
def legalOutput : Output → Prop
  | .empty => True
  | .byte _ => True
  | .word _ _ => True
  | .co2 v => v = -1 ∨ (0 ≤ v ∧ v ≤ 65535)
  | .real .notANumber => True
  | .real (.value q) => ∃ raw : Word, q = tempValue raw ∨ q = humValue raw

/-- What holds of every state a run reaches. -/
structure RunInv (s : State) : Prop where
  /-- The buffer's cells are in canonical form (20_memory.md R30). -/
  bufWf : Memory.wf s.buf = true
  /-- A valid buffer holds nine bytes (10_state.md R17, R18). -/
  bufFull : s.bufValid = true → Memory.full s.buf = true
  /-- A valid buffer holds the bytes of the last read, which was the most recent SNS.FETCH's (10_state.md R18). -/
  bufResponse : s.bufValid = true → ∃ bs, lastRead s.trace = some bs ∧ ∀ a < 9, Memory.read s.buf a = bs[a]?
  /-- A block that can step has only whole transactions behind it (20_memory.md R40). -/
  traceWhole : running s = true → wholeTransactions s.trace = true
  /-- A block that cannot has at most one command word without its read or delay (60_exceptions.md R107). -/
  traceBroken : brokenOff s.trace = true
  /-- pc counts the operations that ended in Ok (10_state.md R23). -/
  pcCounts : s.pc = s.outputs.length
  /-- pc does not pass the end of the program (70_reset_and_hazards.md R118). -/
  pcInProgram : s.pc ≤ s.program.length
  /-- The recorded fault is one of the spec's (60_exceptions.md R104). -/
  faultLegal : ∀ f, s.fault = some f → legalFault f = true
  /-- A stuck block has no fault (42_sensor_transactions.md R81). -/
  stuckNoFault : s.stuck = true → s.fault = none
  /-- Every output is in its domain (42_sensor_transactions.md R97). -/
  outputsLegal : ∀ o ∈ s.outputs, legalOutput o

/-! ### The table T of 95_test_vectors.md L2.1, as printed -/

/-- Rows 0_ to 7_ of T. -/
def crcTableLow : List Byte :=
  [0x00, 0x31, 0x62, 0x53, 0xC4, 0xF5, 0xA6, 0x97, 0xB9, 0x88, 0xDB, 0xEA, 0x7D, 0x4C, 0x1F, 0x2E] ++
  [0x43, 0x72, 0x21, 0x10, 0x87, 0xB6, 0xE5, 0xD4, 0xFA, 0xCB, 0x98, 0xA9, 0x3E, 0x0F, 0x5C, 0x6D] ++
  [0x86, 0xB7, 0xE4, 0xD5, 0x42, 0x73, 0x20, 0x11, 0x3F, 0x0E, 0x5D, 0x6C, 0xFB, 0xCA, 0x99, 0xA8] ++
  [0xC5, 0xF4, 0xA7, 0x96, 0x01, 0x30, 0x63, 0x52, 0x7C, 0x4D, 0x1E, 0x2F, 0xB8, 0x89, 0xDA, 0xEB] ++
  [0x3D, 0x0C, 0x5F, 0x6E, 0xF9, 0xC8, 0x9B, 0xAA, 0x84, 0xB5, 0xE6, 0xD7, 0x40, 0x71, 0x22, 0x13] ++
  [0x7E, 0x4F, 0x1C, 0x2D, 0xBA, 0x8B, 0xD8, 0xE9, 0xC7, 0xF6, 0xA5, 0x94, 0x03, 0x32, 0x61, 0x50] ++
  [0xBB, 0x8A, 0xD9, 0xE8, 0x7F, 0x4E, 0x1D, 0x2C, 0x02, 0x33, 0x60, 0x51, 0xC6, 0xF7, 0xA4, 0x95] ++
  [0xF8, 0xC9, 0x9A, 0xAB, 0x3C, 0x0D, 0x5E, 0x6F, 0x41, 0x70, 0x23, 0x12, 0x85, 0xB4, 0xE7, 0xD6]

/-- Rows 8_ to F_ of T. -/
def crcTableHigh : List Byte :=
  [0x7A, 0x4B, 0x18, 0x29, 0xBE, 0x8F, 0xDC, 0xED, 0xC3, 0xF2, 0xA1, 0x90, 0x07, 0x36, 0x65, 0x54] ++
  [0x39, 0x08, 0x5B, 0x6A, 0xFD, 0xCC, 0x9F, 0xAE, 0x80, 0xB1, 0xE2, 0xD3, 0x44, 0x75, 0x26, 0x17] ++
  [0xFC, 0xCD, 0x9E, 0xAF, 0x38, 0x09, 0x5A, 0x6B, 0x45, 0x74, 0x27, 0x16, 0x81, 0xB0, 0xE3, 0xD2] ++
  [0xBF, 0x8E, 0xDD, 0xEC, 0x7B, 0x4A, 0x19, 0x28, 0x06, 0x37, 0x64, 0x55, 0xC2, 0xF3, 0xA0, 0x91] ++
  [0x47, 0x76, 0x25, 0x14, 0x83, 0xB2, 0xE1, 0xD0, 0xFE, 0xCF, 0x9C, 0xAD, 0x3A, 0x0B, 0x58, 0x69] ++
  [0x04, 0x35, 0x66, 0x57, 0xC0, 0xF1, 0xA2, 0x93, 0xBD, 0x8C, 0xDF, 0xEE, 0x79, 0x48, 0x1B, 0x2A] ++
  [0xC1, 0xF0, 0xA3, 0x92, 0x05, 0x34, 0x67, 0x56, 0x78, 0x49, 0x1A, 0x2B, 0xBC, 0x8D, 0xDE, 0xEF] ++
  [0x82, 0xB3, 0xE0, 0xD1, 0x46, 0x77, 0x24, 0x15, 0x3B, 0x0A, 0x59, 0x68, 0xFF, 0xCE, 0x9D, 0xAC]

/-- The 256 entries of T. -/
def crcTable : List Byte := crcTableLow ++ crcTableHigh

/-! ### Errors on a 24-bit triple (41_response_parser.md R78) -/

/-- The high byte of a triple `(hi, lo, c)` as one value (R78). -/
def tripleHi (e : BitVec 24) : Byte := e.extractLsb' 16 8

/-- The low byte. -/
def tripleLo (e : BitVec 24) : Byte := e.extractLsb' 8 8

/-- The checksum byte. -/
def tripleCrc (e : BitVec 24) : Byte := e.extractLsb' 0 8

/-- The validator on a triple (R73). -/
def checkTriple (e : BitVec 24) : Bool := check (tripleHi e) (tripleLo e) (tripleCrc e)

/-- How many bits are set. -/
def weight (e : BitVec 24) : Nat := ((List.range 24).filter fun i => e.getLsbD i).length

/-- All set bits lie within 8 consecutive positions. -/
def withinBurst (e : BitVec 24) : Prop := ∃ p, ∀ i, e.getLsbD i = true → p ≤ i ∧ i < p + 8

/-! ### Polynomials over GF(2) (40_crc_engine.md R61) -/

open Polynomial in
/-- The byte a read as Σ a[i] x^i. -/
noncomputable def bytePoly (a : Byte) : (ZMod 2)[X] :=
  ∑ i ∈ Finset.range 8, if a.getLsbD i then X ^ i else 0

open Polynomial in
/-- g(x) = x^8 + x^5 + x^4 + 1. -/
noncomputable def generator : (ZMod 2)[X] := X ^ 8 + X ^ 5 + X ^ 4 + 1

open Polynomial in
/-- A sequence of n bytes read as M(x) = Σ s[j](x) x^(8(n-1-j)). -/
noncomputable def seqPoly : List Byte → (ZMod 2)[X]
  | [] => 0
  | b :: s => bytePoly b * X ^ (8 * s.length) + seqPoly s

/-! ### The value of a binary64 pattern (42_sensor_transactions.md R98) -/

/-- The exact value of a normal binary64 number or of zero; none for the other patterns. -/
def binary64Value (b : BitVec 64) : Option Rat :=
  let e := (b.extractLsb' 52 11).toNat
  let m := (b.extractLsb' 0 52).toNat
  let sign : Rat := if b.getLsbD 63 then -1 else 1
  if e = 0 then if m = 0 then some 0 else none
  else if e = 2047 then none
  else some (sign * (2 ^ 52 + m) * 2 ^ ((e : Int) - 1075))

end Sys2Proof.Safety
end

