-- ==== Sys2Proof/Certificates/Slice0/Obligations.lean ====
section
/-! DEFINITION. The statements for the provers. Each docstring names the rule of spec/ the statement formalises, or
says what is the model's own choice and which log entry holds it. Where a next state is written out, its reply lists
and draw count are the model's own fields (log 3), and so is its list of outputs (log 4). -/

open Sys2Proof Sys2Proof.Machine Sys2Proof.Safety

/-! ### Encoding -/

/-- Words written out from R50 and R46 decode to the instructions they stand for (also 95_test_vectors.md L2.7). -/
def Obligations.ListedWordsDecode : Prop :=
  decode .hostop 0x1000 = .ok .crcInit ∧
  decode .hostop 0x20BE = .ok (.crcUpdate 0xBE) ∧
  decode .hostop 0x3000 = .ok .crcRead ∧
  decode .hostop 0x4100 = .ok (.chkWord 1) ∧
  decode .hostop 0x5000 = .ok .snsStart ∧
  decode .hostop 0x8000 = .ok .snsReadTemp ∧
  decode .hostop 0x4300 = .error .noSuchWord ∧
  decode .hostop 0x2400 = .error .reservedField ∧
  decode .buscmd 0x21B1 = .ok .busStart ∧
  decode .buscmd 0xEC05 = .ok .busRead

/-- Decode and encode agree on every well-formed instruction, every operand at every value (R50, R51, R46). -/
def Obligations.DecodeEncodeAgree : Prop :=
  ∀ i : Instr, i.wf = true → decode (formatOf i) (encode i) = .ok i

/-- A word that decodes is the encoding of the one well-formed instruction it decodes to, in its own format (R52, R46). -/
def Obligations.DecodedWordEncodesBack : Prop :=
  ∀ (f : Format) (w : Word) (i : Instr), decode f w = .ok i → i.wf = true ∧ formatOf i = f ∧ encode i = w

/-- R50: the match and mask pairs are exact. CHK.WORD's further constraint is k ≠ 3, the operands are
R51's fields, and selectors 0x0 and 0xA to 0xF are reserved. -/
def Obligations.HostWordsMatchTheTable : Prop :=
  ∀ w : Word,
    (decode .hostop w = .ok .crcInit ↔ w &&& 0xFFFF = 0x1000) ∧
    (∀ b, decode .hostop w = .ok (.crcUpdate b) ↔ w &&& 0xFF00 = 0x2000 ∧ b = w.extractLsb' 0 8) ∧
    (decode .hostop w = .ok .crcRead ↔ w &&& 0xFFFF = 0x3000) ∧
    (∀ k, decode .hostop w = .ok (.chkWord k) ↔ w &&& 0xFCFF = 0x4000 ∧ k = w.extractLsb' 8 2 ∧ k ≠ 3) ∧
    (decode .hostop w = .ok .snsStart ↔ w &&& 0xFFFF = 0x5000) ∧
    (decode .hostop w = .ok .snsFetch ↔ w &&& 0xFFFF = 0x6000) ∧
    (decode .hostop w = .ok .snsReadCo2 ↔ w &&& 0xFFFF = 0x7000) ∧
    (decode .hostop w = .ok .snsReadTemp ↔ w &&& 0xFFFF = 0x8000) ∧
    (decode .hostop w = .ok .snsReadHum ↔ w &&& 0xFFFF = 0x9000) ∧
    (w.extractLsb' 12 4 = 0x0#4 ∨ 0xA#4 ≤ w.extractLsb' 12 4 → accepted (decode .hostop w) = none)

/-- R52's count: 266 of the 65536 words decode. -/
def Obligations.Exactly266WordsDecode : Prop :=
  Nat.card { w : Word // (accepted (decode .hostop w)).isSome = true } = 266

/-- R53: the classes of words the decoder refuses. -/
def Obligations.ReservedWordsAreRefused : Prop :=
  ∀ w : Word,
    (w.extractLsb' 12 4 = 0x0#4 ∨ 0xA#4 ≤ w.extractLsb' 12 4 → accepted (decode .hostop w) = none) ∧
    (w.extractLsb' 10 2 ≠ 0#2 → accepted (decode .hostop w) = none) ∧
    (w.extractLsb' 8 2 ≠ 0#2 → w.extractLsb' 12 4 ≠ 0x4#4 → accepted (decode .hostop w) = none) ∧
    (w.extractLsb' 0 8 ≠ 0#8 → w.extractLsb' 12 4 ≠ 0x2#4 → accepted (decode .hostop w) = none) ∧
    (w.extractLsb' 12 4 = 0x4#4 → w.extractLsb' 8 2 = 3#2 → accepted (decode .hostop w) = none)

/-- No word belongs to both formats: neither bus command word is a host word (R46, R50, R54). -/
def Obligations.FormatsAreDisjoint : Prop :=
  ∀ w : Word, (accepted (decode .buscmd w)).isSome = true → accepted (decode .hostop w) = none

/-- R57: the expansion of CRC.COMPUTE has n + 2 operations, and these words. -/
def Obligations.ComputeExpansion : Prop :=
  ∀ bs : List Byte,
    (expandCompute bs).length = bs.length + 2 ∧
    (expandCompute bs).map encode =
      (0x1000 : Word) :: (bs.map (fun b => (0x2000 : Word) ||| b.setWidth 16) ++ [0x3000])

/-! ### The step -/

/-- A running block whose next host word decodes runs exactly that instruction; the step adds nothing around exec
(10_state.md R23). -/
def Obligations.StepRunsDecoded : Prop :=
  ∀ (s : State) (w : Word) (i : Instr), running s = true → s.program[s.pc]? = some w →
    decode .hostop w = .ok i → step s = exec i s

/-- R103: a word that does not decode is recorded in `fault` and does nothing else; the run has then stopped and is
not final. That `.fault .stopped` is the outcome that stands for this stop is the model's choice (log 16). -/
def Obligations.RefusedWordIsOnlyRecorded : Prop :=
  ∀ (s : State) (w : Word) (e : DecodeRefusal), running s = true → s.program[s.pc]? = some w →
    decode .hostop w = .error e →
    step s = .next { s with fault := some (.refused w) } ∧
    outcomeCode (some (.refused w)) = 4 ∧
    step { s with fault := some (.refused w) } = .fault .stopped ∧
    endsNormally { s with fault := some (.refused w) } = false

/-- R108: after a fault no operation steps, a step is only ever taken with no fault recorded, and reset clears it. That
`.fault .stopped` is the outcome that stands for this stop, of a state that is stuck besides too, is the model's
choice (log 16). -/
def Obligations.FaultIsFinalUntilReset : Prop :=
  (∀ (s : State) (f : FaultRecord), s.fault = some f → step s = .fault .stopped) ∧
  (∀ s t : State, step s = .next t → s.fault = none) ∧
  (∀ s : State, s.resetBlock.fault = none)

/-- The two stops that are no faults: a primitive that never completes (R81), and a program with no word left, which
is a normal end exactly at pc = m (R118). That they are these outcomes of `step` is the model's choice (log 16). -/
def Obligations.StopsThatAreNoFaults : Prop :=
  (∀ s : State, s.fault = none → s.stuck = true → step s = .fault .neverCompletes) ∧
  (∀ s : State, running s = true → s.program.length ≤ s.pc → step s = .refused .endOfProgram) ∧
  (∀ s : State, endsNormally s = true ↔ s.fault = none ∧ s.stuck = false ∧ s.pc = s.program.length)

/-- R23, R100: a step that leaves the block running advances pc by one and returns one output; a step that does not
leaves pc and the outputs as they were. The program never changes. -/
def Obligations.StepAdvancesByOneOrStops : Prop :=
  ∀ s t : State, step s = .next t →
    t.program = s.program ∧
    ((running t = true ∧ t.pc = s.pc + 1 ∧ ∃ o, t.outputs = s.outputs ++ [o]) ∨
     (running t = false ∧ t.pc = s.pc ∧ t.outputs = s.outputs))

/-- R115: the state after reset, and after a reset event in any state; no step clears `fault`; the hardwired constants. -/
def Obligations.ResetState : Prop :=
  (State.reset.acc = none ∧ (∀ a, Memory.read State.reset.buf a = none) ∧ State.reset.bufValid = false ∧
    State.reset.trace = [] ∧ State.reset.fault = none ∧ State.reset.pc = 0) ∧
  (∀ s : State, s.resetBlock.acc = none ∧ (∀ a, Memory.read s.resetBlock.buf a = none) ∧
    s.resetBlock.bufValid = false ∧ s.resetBlock.trace = [] ∧ s.resetBlock.fault = none ∧ s.resetBlock.pc = 0) ∧
  (∀ s t : State, s.fault ≠ none → step s ≠ .next t) ∧
  (Config.devAddr = 0x62 ∧ Config.crcPoly = 0x31 ∧ Config.crcInit = 0xFF ∧ Config.cmdStart = 0x21B1 ∧
    Config.cmdRead = 0xEC05 ∧ Config.respLen = 9 ∧ Config.settleMs = 500)

/-- The invariant holds after reset. -/
def Obligations.InvariantHoldsAtReset : Prop := RunInv State.reset

/-- Every step keeps the invariant: the buffer's canonical form; in a valid buffer nine bytes, those of the last read of
the trace (R18); whole transactions in the trace with at most one broken off; pc the number of outputs; legal faults;
outputs in their domains. -/
def Obligations.StepKeepsInvariant : Prop :=
  ∀ s t : State, RunInv s → step s = .next t → RunInv t

/-! ### The engine -/

/-- R59 and R60: the bit step on the 9-bit intermediate, its equivalent form, the byte step as eight bit steps, and
the corner cases, which R59 and R60 mark '[derived: from this rule]'. -/
def Obligations.CrcStepIsTheNineBitShift : Prop :=
  (∀ a : Byte, crcBit a =
    (((a.setWidth 9 <<< 1) ^^^ (if a.getLsbD 7 then (0x31 : BitVec 9) else 0)).setWidth 8)) ∧
  (∀ a : Byte, crcBit a = (a <<< 1) ^^^ (if a.getLsbD 7 then 0x31 else 0)) ∧
  crcBit 0x00 = 0x00 ∧ crcBit 0x80 = 0x31 ∧ crcBit 0xFF = 0xCF ∧
  (∀ a b : Byte, crcByte a b = crcBit^[8] (a ^^^ b)) ∧
  (∀ a : Byte, crcByte a a = 0x00) ∧ crcByte 0xFF 0x00 = 0xAC

/-- R62, which the spec itself derives from R59, R60 and R63: the printed table, the bijections and the two check
values. -/
def Obligations.CrcTableAndBijection : Prop :=
  (∀ a b : Byte, crcTable[(a ^^^ b).toNat]? = some (crcByte a b)) ∧
  (∀ x : Byte, crcTable[x.toNat]? = some (crcByte 0 x)) ∧
  Function.Bijective (crcByte 0) ∧
  (∀ a : Byte, Function.Bijective (crcByte a)) ∧
  crc8 [0x31, 0x32, 0x33, 0x34, 0x35, 0x36, 0x37, 0x38, 0x39] = 0xF7 ∧
  crc8 [0xBE, 0xEF] = 0x92

open Polynomial in
/-- R61, which the spec itself derives from R59, R60 and R63: the bit step, the byte step and the checksum are
remainders modulo g over GF(2). -/
def Obligations.CrcIsPolynomialDivision : Prop :=
  (∀ a : Byte, bytePoly (crcBit a) = (X * bytePoly a) %ₘ generator) ∧
  (∀ a b : Byte, bytePoly (crcByte a b) = (X ^ 8 * (bytePoly a + bytePoly b)) %ₘ generator) ∧
  (∀ s : List Byte, bytePoly (crc8 s) =
    (X ^ (8 * s.length) * bytePoly 0xFF + X ^ 8 * seqPoly s) %ₘ generator)

/-- R69, which the spec itself derives from R59, R60 and R63: affinity, and that the effect of a difference pattern
does not depend on the sequence. -/
def Obligations.CrcIsAffine : Prop :=
  (∀ s t : List Byte, s.length = t.length →
    crc8 (List.zipWith (· ^^^ ·) s t) = crc8 s ^^^ crc8 t ^^^ crc8 (List.replicate s.length 0)) ∧
  (∀ s t e : List Byte, s.length = e.length → t.length = e.length →
    crc8 s ^^^ crc8 (List.zipWith (· ^^^ ·) s e) = crc8 t ^^^ crc8 (List.zipWith (· ^^^ ·) t e))

/-- R64: CRC.INIT completes from every state, and this is all it changes. -/
def Obligations.CrcInitCompletes : Prop :=
  encode .crcInit = 0x1000 ∧
  ∀ s : State, exec .crcInit s =
    .next { s with acc := some 0xFF, outputs := s.outputs ++ [.empty], pc := s.pc + 1 }

/-- R65: CRC.UPDATE folds its byte into an initialised accumulator, and raises AccUninitialised otherwise; this is
all it changes. -/
def Obligations.CrcUpdateFoldsItsByte : Prop :=
  (∀ b : Byte, encode (.crcUpdate b) = 0x2000 ||| b.setWidth 16) ∧
  (∀ (s : State) (a b : Byte), s.acc = some a → exec (.crcUpdate b) s =
    .next { s with acc := some (crcBit^[8] (a ^^^ b)), outputs := s.outputs ++ [.empty], pc := s.pc + 1 }) ∧
  (∀ (s : State) (b : Byte), s.acc = none → exec (.crcUpdate b) s =
    .next { s with fault := some (.accUninitialised .update) })

/-- R66: CRC.READ returns an initialised accumulator unchanged, and raises AccUninitialised otherwise. -/
def Obligations.CrcReadReturnsAcc : Prop :=
  encode .crcRead = 0x3000 ∧
  (∀ (s : State) (a : Byte), s.acc = some a → exec .crcRead s =
    .next { s with outputs := s.outputs ++ [.byte a], pc := s.pc + 1 }) ∧
  (∀ s : State, s.acc = none → exec .crcRead s = .next { s with fault := some (.accUninitialised .read) })

/-- The bytes a zero byte leaves alone, by R60: not only 0x00 but 0xEF as well (T[0xEF] = 0xEF in 95_test_vectors.md L2.1). -/
def Obligations.ZeroByteFixedPoints : Prop :=
  ∀ a : Byte, crcByte a 0x00 = a ↔ a = 0x00 ∨ a = 0xEF

/-- The corner remark of R65, as it stands: CRC.UPDATE 0x00 changes acc unless acc = 0x00. R60 and the printed table
refute it at acc = 0xEF, so it is expected to fail (log 15). -/
def Obligations.ZeroByteChangesEveryNonzeroAcc : Prop :=
  ∀ a : Byte, a ≠ 0x00 → crcByte a 0x00 ≠ a

/-- R67, which the spec itself derives from R63 to R66: CRC.COMPUTE returns crc8 of its bytes and leaves it in acc,
whatever acc held; nothing else changes but the outputs and pc of its n + 2 operations. -/
def Obligations.ComputeReturnsCrc8 : Prop :=
  ∀ (bs : List Byte) (s : State), running s = true → execSeq (expandCompute bs) s =
    .next { s with
      acc := some (crc8 bs),
      outputs := s.outputs ++ List.replicate (bs.length + 1) .empty ++ [.byte (crc8 bs)],
      pc := s.pc + (bs.length + 2) }

/-- R68, which the spec itself derives from R64, R65 and R67: two executions of CRC.COMPUTE of the same bytes return
the same value, from any two states. -/
def Obligations.ComputeIsDeterministic : Prop :=
  ∀ (bs : List Byte) (s t : State), running s = true → running t = true →
    ∃ s' t' v, execSeq (expandCompute bs) s = .next s' ∧ execSeq (expandCompute bs) t = .next t' ∧
      s'.outputs.getLast? = some (.byte v) ∧ t'.outputs.getLast? = some (.byte v)

/-- R101: the two precondition faults, raised before any effect, and never by CRC.COMPUTE or a public operation. -/
def Obligations.PreconditionFaults : Prop :=
  (∀ (s : State) (b : Byte), s.acc = none →
    exec (.crcUpdate b) s = .next { s with fault := some (.accUninitialised .update) }) ∧
  (∀ s : State, s.acc = none → exec .crcRead s = .next { s with fault := some (.accUninitialised .read) }) ∧
  (∀ (s : State) (k : BitVec 2), k ≠ 3 → s.bufValid = false →
    exec (.chkWord k) s = .next { s with fault := some (.noResponse k) }) ∧
  (∀ (bs : List Byte) (s : State), running s = true →
    ∃ t, execSeq (expandCompute bs) s = .next t ∧ t.fault = none) ∧
  (∀ i ∈ [Instr.snsStart, .snsReadCo2, .snsReadTemp, .snsReadHum], ∀ s t : State, s.fault = none →
    exec i s = .next t → ∀ f, t.fault = some f → ∃ kind addr phase, f = .transport kind addr phase)

/-! ### The parser -/

/-- R76: CHK.WORD of a valid buffer returns the raw word and its validity and changes nothing else; of an invalid one
it raises NoResponse. -/
def Obligations.ChkWordReturnsWordAndValidity : Prop :=
  (encode (.chkWord 0) = 0x4000 ∧ encode (.chkWord 1) = 0x4100 ∧ encode (.chkWord 2) = 0x4200 ∧
    accepted (decode .hostop 0x4300) = none) ∧
  (∀ (s : State) (k : BitVec 2) (hi lo c : Byte), k ≠ 3 → s.bufValid = true →
    Memory.read s.buf (3 * k.toNat) = some hi → Memory.read s.buf (3 * k.toNat + 1) = some lo →
    Memory.read s.buf (3 * k.toNat + 2) = some c →
    exec (.chkWord k) s = .next { s with
      outputs := s.outputs ++ [.word (BitVec.ofNat 16 (hi.toNat * 256 + lo.toNat)) (decide (crc8 [hi, lo] = c))],
      pc := s.pc + 1 }) ∧
  (∀ (s : State) (k : BitVec 2), k ≠ 3 → s.bufValid = false →
    exec (.chkWord k) s = .next { s with fault := some (.noResponse k) })

/-- The model's own choices about CHK.WORD, in cases no run reaches: with k = 3, which no word encodes, it ends as the
refused word 0x4300 does (log 11); with `buf_valid` set and any of the word's three bytes missing it raises NoResponse
(log 2). -/
def Obligations.ChkWordWhereNoRunComes : Prop :=
  (∀ s : State, exec (.chkWord 3) s = .next { s with fault := some (.refused 0x4300) }) ∧
  (∀ (s : State) (k : BitVec 2), k ≠ 3 → s.bufValid = true →
    (∃ j < 3, Memory.read s.buf (3 * k.toNat + j) = none) →
    exec (.chkWord k) s = .next { s with fault := some (.noResponse k) })

/-- R75: the raw value and the validity of word k depend on its three bytes only, in CHK.WORD and in the three reads. -/
def Obligations.OnlyTheWordsOwnBytesCount : Prop :=
  (∀ (s t : State) (k : BitVec 2), k ≠ 3 → s.bufValid = true → t.bufValid = true →
    Memory.full s.buf = true → Memory.full t.buf = true →
    (∀ j < 3, Memory.read s.buf (3 * k.toNat + j) = Memory.read t.buf (3 * k.toNat + j)) →
    ∃ s' t' o, exec (.chkWord k) s = .next s' ∧ exec (.chkWord k) t = .next t' ∧
      s'.outputs = s.outputs ++ [o] ∧ t'.outputs = t.outputs ++ [o]) ∧
  (∀ (s t : State) (bs cs : List Byte), s.nextWrite = .done → t.nextWrite = .done →
    s.drewWrite.nextRead = .bytes bs → t.drewWrite.nextRead = .bytes cs → bs.length = 9 → cs.length = 9 →
    ∀ p ∈ [(Instr.snsReadCo2, 0), (.snsReadTemp, 3), (.snsReadHum, 6)],
    (∀ j < 3, bs[p.2 + j]? = cs[p.2 + j]?) →
    ∃ s' t' o, exec p.1 s = .next s' ∧ exec p.1 t = .next t' ∧
      s'.outputs = s.outputs ++ [o] ∧ t'.outputs = t.outputs ++ [o])

/-- R77, which the spec itself derives from R60 and R63: the residue form of the check. -/
def Obligations.ResidueForm : Prop :=
  (∀ hi lo : Byte, crc8 [hi, lo, crc8 [hi, lo]] = 0x00) ∧
  (∀ hi lo c : Byte, check hi lo c = true ↔ crc8 [hi, lo, c] = 0x00)

/-- R78, which the spec itself derives from R69: which error patterns the check detects, whatever the valid triple,
and that four is the least weight of one it does not. -/
def Obligations.ErrorDetection : Prop :=
  (∀ t e : BitVec 24, checkTriple t = true → e ≠ 0 → (weight e ≤ 3 ∨ weight e % 2 = 1 ∨ withinBurst e) →
    checkTriple (t ^^^ e) = false) ∧
  (∀ t u e : BitVec 24, checkTriple t = true → checkTriple u = true →
    checkTriple (t ^^^ e) = checkTriple (u ^^^ e)) ∧
  (∃ t e : BitVec 24, checkTriple t = true ∧ weight e = 4 ∧ checkTriple (t ^^^ e) = true)

/-- R79, which the spec itself derives from R73 and R62: one valid checksum byte per word, 2^16 valid triples, and the
two fill patterns are invalid. -/
def Obligations.ValidatorAcceptsOneChecksum : Prop :=
  (∀ hi lo c : Byte, check hi lo c = true ↔ c = crc8 [hi, lo]) ∧
  Nat.card { e : BitVec 24 // checkTriple e = true } = 2 ^ 16 ∧
  check 0x00 0x00 0x00 = false ∧ crc8 [0x00, 0x00] = 0x81 ∧
  check 0xFF 0xFF 0xFF = false ∧ crc8 [0xFF, 0xFF] = 0xAC

/-! ### The sequencer -/

/-- R85: SNS.START writes 0x21B1 to 0x62 (bytes 21 B1) and delays 500, and this is all it changes; if the write fails
it raises the TransportFault without the delay. The reply lists and the draw count are the model's own fields (log 3). -/
def Obligations.SnsStartCommandsAndWaits : Prop :=
  encode .snsStart = 0x5000 ∧
  (∀ s : State, s.nextWrite = .done → s.drewWrite.nextDelay = .elapsed → exec .snsStart s =
    .next { s with
      trace := s.trace ++ [.write 0x62 0x21B1, .delay 500],
      writeReplies := s.writeReplies.tail, delayReplies := s.delayReplies.tail, draws := s.draws + 2,
      outputs := s.outputs ++ [.empty], pc := s.pc + 1 }) ∧
  (∀ (s : State) (f : Nat), s.nextWrite = .failed f → exec .snsStart s =
    .next { s with
      fault := some (.transport (.reported f) 0x62 (.write 0x21B1)),
      writeReplies := s.writeReplies.tail, draws := s.draws + 1 }) ∧
  wireBytes 0x21B1 = [0x21, 0xB1]

/-- R86: a run through SNS.START ends with the command and a delay request of exactly 500, at least 500 ms lie between
the command and whatever event comes next, and no output is returned without them. -/
def Obligations.SettlingDelayCannotBeSkipped : Prop :=
  ∀ s t : State, running s = true → exec .snsStart s = .next t →
    (running t = true → t.trace = s.trace ++ [.write 0x62 0x21B1, .delay 500] ∧
      ∀ e, elapsedAtLeast (t.trace ++ [e]) s.trace.length (s.trace.length + 2) 500 = true) ∧
    (t.outputs ≠ s.outputs → running t = true)

/-- R87: SNS.FETCH writes 0xEC05 to 0x62 (bytes EC 05), reads nine bytes, puts them in the buffer and marks it valid;
nothing else changes. -/
def Obligations.SnsFetchFillsTheBuffer : Prop :=
  encode .snsFetch = 0x6000 ∧ FetchFaults .snsFetch ∧
  (∀ (s : State) (bs : List Byte), s.nextWrite = .done → s.drewWrite.nextRead = .bytes bs → bs.length = 9 →
    ∃ buf, (∀ a < 9, Memory.read buf a = bs[a]?) ∧ (∀ a, 9 ≤ a → Memory.read buf a = Memory.read s.buf a) ∧
      exec .snsFetch s = .next { s with
        buf := buf, bufValid := true,
        trace := s.trace ++ [.write 0x62 0xEC05, .read 0x62 9 bs],
        writeReplies := s.writeReplies.tail, readReplies := s.readReplies.tail, draws := s.draws + 2,
        outputs := s.outputs ++ [.empty], pc := s.pc + 1 }) ∧
  wireBytes 0xEC05 = [0xEC, 0x05]

/-- R92: SNS.READ_CO2, from the response bytes b0 to b8: the word b0 b1 as an integer if b2 is its checksum, else -1;
the buffer holds the response and is no longer valid, and nothing else changes. -/
def Obligations.SnsReadCo2Reading : Prop :=
  encode .snsReadCo2 = 0x7000 ∧ FetchFaults .snsReadCo2 ∧
  ∀ (s : State) (b0 b1 b2 b3 b4 b5 b6 b7 b8 : Byte), s.nextWrite = .done →
    s.drewWrite.nextRead = .bytes [b0, b1, b2, b3, b4, b5, b6, b7, b8] →
    ∃ buf, (∀ a < 9, Memory.read buf a = [b0, b1, b2, b3, b4, b5, b6, b7, b8][a]?) ∧
      (∀ a, 9 ≤ a → Memory.read buf a = Memory.read s.buf a) ∧
      exec .snsReadCo2 s = .next { s with
        buf := buf, bufValid := false,
        trace := s.trace ++ [.write 0x62 0xEC05, .read 0x62 9 [b0, b1, b2, b3, b4, b5, b6, b7, b8]],
        writeReplies := s.writeReplies.tail, readReplies := s.readReplies.tail, draws := s.draws + 2,
        outputs := s.outputs ++
          [.co2 (if crc8 [b0, b1] = b2 then ((b0.toNat * 256 + b1.toNat : Nat) : Int) else -1)],
        pc := s.pc + 1 }

/-- R93: SNS.READ_TEMP, from the response bytes: -45 + 175 · raw / 65536 exactly if b5 is the checksum of b3 b4, else
the not-a-number sentinel. -/
def Obligations.SnsReadTempReading : Prop :=
  encode .snsReadTemp = 0x8000 ∧ FetchFaults .snsReadTemp ∧
  ∀ (s : State) (b0 b1 b2 b3 b4 b5 b6 b7 b8 : Byte), s.nextWrite = .done →
    s.drewWrite.nextRead = .bytes [b0, b1, b2, b3, b4, b5, b6, b7, b8] →
    ∃ buf, (∀ a < 9, Memory.read buf a = [b0, b1, b2, b3, b4, b5, b6, b7, b8][a]?) ∧
      (∀ a, 9 ≤ a → Memory.read buf a = Memory.read s.buf a) ∧
      exec .snsReadTemp s = .next { s with
        buf := buf, bufValid := false,
        trace := s.trace ++ [.write 0x62 0xEC05, .read 0x62 9 [b0, b1, b2, b3, b4, b5, b6, b7, b8]],
        writeReplies := s.writeReplies.tail, readReplies := s.readReplies.tail, draws := s.draws + 2,
        outputs := s.outputs ++ [.real (if crc8 [b3, b4] = b5
          then .value (-45 + 175 * ((b3.toNat * 256 + b4.toNat : Nat) : Rat) / 65536) else .notANumber)],
        pc := s.pc + 1 }

/-- R94: SNS.READ_HUM, from the response bytes: 100 · raw / 65536 exactly if b8 is the checksum of b6 b7, else the
not-a-number sentinel. -/
def Obligations.SnsReadHumReading : Prop :=
  encode .snsReadHum = 0x9000 ∧ FetchFaults .snsReadHum ∧
  ∀ (s : State) (b0 b1 b2 b3 b4 b5 b6 b7 b8 : Byte), s.nextWrite = .done →
    s.drewWrite.nextRead = .bytes [b0, b1, b2, b3, b4, b5, b6, b7, b8] →
    ∃ buf, (∀ a < 9, Memory.read buf a = [b0, b1, b2, b3, b4, b5, b6, b7, b8][a]?) ∧
      (∀ a, 9 ≤ a → Memory.read buf a = Memory.read s.buf a) ∧
      exec .snsReadHum s = .next { s with
        buf := buf, bufValid := false,
        trace := s.trace ++ [.write 0x62 0xEC05, .read 0x62 9 [b0, b1, b2, b3, b4, b5, b6, b7, b8]],
        writeReplies := s.writeReplies.tail, readReplies := s.readReplies.tail, draws := s.draws + 2,
        outputs := s.outputs ++ [.real (if crc8 [b6, b7] = b8
          then .value (100 * ((b6.toNat * 256 + b7.toNat : Nat) : Rat) / 65536) else .notANumber)],
        pc := s.pc + 1 }

/-- R88: where `fetch_body` faults: a failed write issues no read, a failed or short read writes no buffer, and both
clear `buf_valid`. The buffer's bytes, acc, pc and the outputs are as before (R107's rows). -/
def Obligations.FetchFaultsArePrecise : Prop :=
  ∀ i ∈ [Instr.snsFetch, .snsReadCo2, .snsReadTemp, .snsReadHum], FetchFaults i

/-- A primitive that never completes leaves its operation stuck with the events before it, no fault, and pc in place
(R81, P7g). Three clauses are the model's own reading or choice: that a write and a delay may hang as a read may, and
that a hung fetch leaves `buf` and `buf_valid` as they were (both deduced, log 5); and that busStart and busRead, whose
rows have a meaning of their own, hang so too (log 6). -/
def Obligations.HangingPrimitiveSticks : Prop :=
  (∀ s : State, s.nextWrite = .never →
    ∀ i ∈ [Instr.snsStart, .snsFetch, .snsReadCo2, .snsReadTemp, .snsReadHum, .busStart, .busRead],
    exec i s = .next { s with stuck := true, writeReplies := s.writeReplies.tail, draws := s.draws + 1 }) ∧
  (∀ s : State, s.nextWrite = .done → s.drewWrite.nextRead = .never →
    ∀ i ∈ [Instr.snsFetch, .snsReadCo2, .snsReadTemp, .snsReadHum],
    exec i s = .next { s with
      stuck := true, trace := s.trace ++ [.write 0x62 0xEC05],
      writeReplies := s.writeReplies.tail, readReplies := s.readReplies.tail, draws := s.draws + 2 }) ∧
  (∀ s : State, s.nextWrite = .done → s.drewWrite.nextDelay = .never →
    exec .snsStart s = .next { s with
      stuck := true, trace := s.trace ++ [.write 0x62 0x21B1],
      writeReplies := s.writeReplies.tail, delayReplies := s.delayReplies.tail, draws := s.draws + 2 })

/-- R95: three reads that run through make three transactions of their own, in order, and each reading comes from its
own response. -/
def Obligations.ThreeReadsThreeTransactions : Prop :=
  ∀ s t : State, running s = true →
    execSeq [.snsReadCo2, .snsReadTemp, .snsReadHum] s = .next t → running t = true →
    ∃ a b c : List Byte, a.length = 9 ∧ b.length = 9 ∧ c.length = 9 ∧
      t.trace = s.trace ++ [.write 0x62 0xEC05, .read 0x62 9 a, .write 0x62 0xEC05, .read 0x62 9 b,
        .write 0x62 0xEC05, .read 0x62 9 c] ∧
      t.outputs = s.outputs ++
        [co2Output (bigEndian (a.getD 0 0) (a.getD 1 0)) (check (a.getD 0 0) (a.getD 1 0) (a.getD 2 0)),
         tempOutput (bigEndian (b.getD 3 0) (b.getD 4 0)) (check (b.getD 3 0) (b.getD 4 0) (b.getD 5 0)),
         humOutput (bigEndian (c.getD 6 0) (c.getD 7 0)) (check (c.getD 6 0) (c.getD 7 0) (c.getD 8 0))]

/-- R99: a checksum mismatch is an output and no fault: CHK.WORD returns the raw word with validity 0, the reads return
their sentinels, the run goes on, and no transaction is repeated. -/
def Obligations.ChecksumMismatchIsAnOutput : Prop :=
  (∀ (s : State) (k : BitVec 2) (hi lo c : Byte), running s = true → k ≠ 3 → s.bufValid = true →
    Memory.read s.buf (3 * k.toNat) = some hi → Memory.read s.buf (3 * k.toNat + 1) = some lo →
    Memory.read s.buf (3 * k.toNat + 2) = some c → crc8 [hi, lo] ≠ c →
    ∃ t, exec (.chkWord k) s = .next t ∧ running t = true ∧
      t.outputs = s.outputs ++ [.word (bigEndian hi lo) false]) ∧
  (∀ (s : State) (bs : List Byte), running s = true → s.nextWrite = .done → s.drewWrite.nextRead = .bytes bs →
    bs.length = 9 →
    ∀ p ∈ [(Instr.snsReadCo2, 0, Output.co2 (-1)), (.snsReadTemp, 3, .real .notANumber),
      (.snsReadHum, 6, .real .notANumber)],
    crc8 [bs.getD p.2.1 0, bs.getD (p.2.1 + 1) 0] ≠ bs.getD (p.2.1 + 2) 0 →
    ∃ t, exec p.1 s = .next t ∧ running t = true ∧ t.outputs = s.outputs ++ [p.2.2] ∧
      t.trace = s.trace ++ [.write 0x62 0xEC05, .read 0x62 9 bs])

/-- R122: CHK.WORD answers with its word of the response of the most recent SNS.FETCH, whatever operations that fetch
nothing run in between. An SNS.READ_* overwrites the buffer with its own response and clears `buf_valid`, and from
then on CHK.WORD raises NoResponse, whatever runs in between, until the next SNS.FETCH. -/
def Obligations.BufferLifetime : Prop :=
  (∀ (s u w : State) (k : BitVec 2) (between : List Instr), k ≠ 3 → running s = true →
    exec .snsFetch s = .next u → running u = true →
    (∀ i ∈ between, i ∉ [Instr.snsFetch, .snsReadCo2, .snsReadTemp, .snsReadHum]) →
    execSeq between u = .next w → running w = true →
    ∃ bs, bs.length = 9 ∧ u.trace = s.trace ++ [.write 0x62 0xEC05, .read 0x62 9 bs] ∧
      exec (.chkWord k) w = .next { w with
        outputs := w.outputs ++ [.word (bigEndian (bs.getD (3 * k.toNat) 0) (bs.getD (3 * k.toNat + 1) 0))
          (check (bs.getD (3 * k.toNat) 0) (bs.getD (3 * k.toNat + 1) 0) (bs.getD (3 * k.toNat + 2) 0))],
        pc := w.pc + 1 }) ∧
  (∀ (s u w : State) (k : BitVec 2) (between : List Instr), k ≠ 3 → running s = true →
    ∀ r ∈ [Instr.snsReadCo2, .snsReadTemp, .snsReadHum], exec r s = .next u → running u = true →
    Instr.snsFetch ∉ between → execSeq between u = .next w → running w = true →
    (∃ bs, bs.length = 9 ∧ u.trace = s.trace ++ [.write 0x62 0xEC05, .read 0x62 9 bs] ∧
      ∀ a < 9, Memory.read u.buf a = bs[a]?) ∧
    u.bufValid = false ∧ exec (.chkWord k) w = .next { w with fault := some (.noResponse k) })

/-- R16: no operation but the engine's own reads or writes acc. -/
def Obligations.ParserAndSequencerIgnoreAcc : Prop :=
  ∀ i ∈ [Instr.chkWord 0, .chkWord 1, .chkWord 2, .snsStart, .snsFetch, .snsReadCo2, .snsReadTemp, .snsReadHum],
    ∀ (s : State) (v : Option Byte), ∃ t, exec i s = .next t ∧ t.acc = s.acc ∧
      exec i { s with acc := v } = .next { t with acc := v }

/-- R17, R18: only the fetching operations touch the buffer; they write all nine bytes together or none, and
`buf_valid` is set by a completed SNS.FETCH alone and cleared by every completed read and every faulted fetch. -/
def Obligations.WhoWritesTheBuffer : Prop :=
  ∀ (i : Instr) (s t : State), running s = true → exec i s = .next t →
    (i ∉ [Instr.snsFetch, .snsReadCo2, .snsReadTemp, .snsReadHum] →
      (∀ a, Memory.read t.buf a = Memory.read s.buf a) ∧ t.bufValid = s.bufValid) ∧
    (i ∈ [Instr.snsFetch, .snsReadCo2, .snsReadTemp, .snsReadHum] →
      ((∀ a, Memory.read t.buf a = Memory.read s.buf a) ∨
       (∃ bs, bs.length = 9 ∧ t.trace = s.trace ++ [.write 0x62 0xEC05, .read 0x62 9 bs] ∧
         (∀ a < 9, Memory.read t.buf a = bs[a]?) ∧ ∀ a, 9 ≤ a → Memory.read t.buf a = Memory.read s.buf a)) ∧
      (running t = true → t.bufValid = decide (i = .snsFetch)) ∧
      (t.fault ≠ none → t.bufValid = false))

/-- R19: an instruction appends at most two events and never removes or reorders any. -/
def Obligations.TraceOnlyGrows : Prop :=
  ∀ (i : Instr) (s t : State), exec i s = .next t →
    ∃ l : List Event, t.trace = s.trace ++ l ∧ l.length ≤ 2 ∧
      (i ∉ [Instr.snsStart, .snsFetch, .snsReadCo2, .snsReadTemp, .snsReadHum, .busStart, .busRead] → l = [])

/-- R104, R102, R101: which well-formed host operation ends with which code, exactly when, and with what recorded. Code
1 is the failed write of any bus operation or, after a completed write, the failed or short read of one that fetches:
SNS.START has the write only. No fault means an output was returned or a primitive hangs (log 5). -/
def Obligations.WhoRaisesWhichFault : Prop :=
  ∀ (i : Instr) (s t : State), i.wf = true → formatOf i = .hostop → running s = true →
    (s.bufValid = true → Memory.full s.buf = true) → exec i s = .next t →
    (outcomeCode t.fault = 0 ↔
      (running t = true ∧ ∃ o, t.outputs = s.outputs ++ [o]) ∨
      (t.stuck = true ∧ t.fault = none ∧ t.outputs = s.outputs)) ∧
    (outcomeCode t.fault = 1 ↔
      i ∈ [Instr.snsStart, .snsFetch, .snsReadCo2, .snsReadTemp, .snsReadHum] ∧
      ((∃ f, s.nextWrite = .failed f) ∨
       (i ≠ .snsStart ∧ s.nextWrite = .done ∧
         ((∃ f, s.drewWrite.nextRead = .failed f) ∨ ∃ bs, s.drewWrite.nextRead = .bytes bs ∧ bs.length ≠ 9)))) ∧
    (outcomeCode t.fault = 1 →
      (∃ f, s.nextWrite = .failed f ∧ t.fault =
        some (.transport (.reported f) 0x62 (.write (if i = .snsStart then 0x21B1 else 0xEC05)))) ∨
      (i ≠ .snsStart ∧ s.nextWrite = .done ∧
        ((∃ f, s.drewWrite.nextRead = .failed f ∧ t.fault = some (.transport (.reported f) 0x62 (.read 9))) ∨
         (∃ bs, s.drewWrite.nextRead = .bytes bs ∧ bs.length ≠ 9 ∧
           t.fault = some (.transport .shortRead 0x62 (.read 9)))))) ∧
    (outcomeCode t.fault = 2 ↔ s.acc = none ∧ ((∃ b, i = .crcUpdate b) ∨ i = .crcRead)) ∧
    (outcomeCode t.fault = 2 →
      ((∃ b, i = .crcUpdate b) ∧ t.fault = some (.accUninitialised .update)) ∨
      (i = .crcRead ∧ t.fault = some (.accUninitialised .read))) ∧
    (outcomeCode t.fault = 3 ↔ s.bufValid = false ∧ ∃ k, i = .chkWord k) ∧
    (outcomeCode t.fault = 3 → ∃ k, i = .chkWord k ∧ t.fault = some (.noResponse k)) ∧
    outcomeCode t.fault ≤ 3

/-- R27, which the spec itself derives from R16, R18, R85 and R92 to R94: a public operation carries nothing from one
call to the next but `trace` and `fault`: from two running states in which the transport answers alike, it performs
the same events and ends alike, SNS.START leaves the buffer alone, a read that completes leaves the same nine bytes
and no valid buffer, and acc is untouched. -/
def Obligations.PublicOperationsAreStateless : Prop :=
  ∀ i ∈ [Instr.snsStart, .snsReadCo2, .snsReadTemp, .snsReadHum], ∀ s t : State,
    running s = true → running t = true → s.writeReplies = t.writeReplies → s.readReplies = t.readReplies →
    s.delayReplies = t.delayReplies → s.draws = t.draws →
    ∃ s' t' evs outs, exec i s = .next s' ∧ exec i t = .next t' ∧
      s'.trace = s.trace ++ evs ∧ t'.trace = t.trace ++ evs ∧
      s'.outputs = s.outputs ++ outs ∧ t'.outputs = t.outputs ++ outs ∧
      s'.fault = t'.fault ∧ s'.stuck = t'.stuck ∧ s'.acc = s.acc ∧ t'.acc = t.acc ∧
      (i = .snsStart → s'.buf = s.buf ∧ s'.bufValid = s.bufValid) ∧
      (i ≠ .snsStart → running s' = true →
        s'.bufValid = false ∧ ∀ a < 9, Memory.read s'.buf a = Memory.read t'.buf a)

/-- The bus command words: the block sends the word to 0x62 as one write event; the failure and the hang are R81's. That
the row of a bus command has this effect of its own, returns no output and leaves pc is the model's choice (log 6). -/
def Obligations.BusCommandsAreOneWrite : Prop :=
  ∀ p ∈ [(Instr.busStart, (0x21B1 : Word)), (.busRead, 0xEC05)], ∀ s : State,
    (s.nextWrite = .done → exec p.1 s = .next { s with
      trace := s.trace ++ [.write 0x62 p.2], writeReplies := s.writeReplies.tail, draws := s.draws + 1 }) ∧
    (∀ f, s.nextWrite = .failed f → exec p.1 s = .next { s with
      fault := some (.transport (.reported f) 0x62 (.write p.2)),
      writeReplies := s.writeReplies.tail, draws := s.draws + 1 })

/-! ### Conversions and register forms -/

/-- R90: the temperature conversion is exact. Its corner values, that no raw value gives 0, and the signs around 0 are
what R90 marks '[derived: corner values from this rule]'. -/
def Obligations.TemperatureConversion : Prop :=
  (∀ raw : Word, tempValue raw = -45 + 175 * (raw.toNat : Rat) / 65536 ∧
    tempValue raw = (175 * (raw.toNat : Rat) - 2949120) / 65536 ∧ tempValue raw ≠ 0) ∧
  tempValue 0x0000 = -45 ∧ tempValue 0x8000 = 42.5 ∧ tempValue 0xFFFF = 8519505 / 65536 ∧
  tempValue 16852#16 < 0 ∧ 0 < tempValue 16853#16

/-- R91: the humidity conversion is exact. Its corner values and the bound below 100 are what R91 marks
'[derived: corner values from this rule]'. -/
def Obligations.HumidityConversion : Prop :=
  (∀ raw : Word, humValue raw = 100 * (raw.toNat : Rat) / 65536 ∧
    humValue raw = 25 * (raw.toNat : Rat) / 16384 ∧ humValue raw < 100) ∧
  humValue 0x0000 = 0 ∧ humValue 0x8000 = 50 ∧ humValue 0xFFFF = 1638375 / 16384

/-- R97, which the spec itself derives from R89 to R91: the domain of what each read returns. -/
def Obligations.ReadingsStayInTheirDomains : Prop :=
  ∀ (s t : State) (o : Output), t.outputs = s.outputs ++ [o] →
    (exec .snsReadCo2 s = .next t → ∃ v, o = .co2 v ∧ (v = -1 ∨ (0 ≤ v ∧ v ≤ 65535))) ∧
    (exec .snsReadTemp s = .next t → o = .real .notANumber ∨
      ∃ q : Rat, o = .real (.value q) ∧ -45 ≤ q ∧ q ≤ 8519505 / 65536 ∧ ∃ n : Nat, q = -45 + n * (175 / 65536)) ∧
    (exec .snsReadHum s = .next t → o = .real .notANumber ∨
      ∃ q : Rat, o = .real (.value q) ∧ 0 ≤ q ∧ q ≤ 1638375 / 16384 ∧ ∃ n : Nat, q = n * (25 / 16384))

/-- R98: the register forms. Every reading is exact in binary64, its numerator is below 2^24 over a power of two, and
the sentinel's pattern is a NaN whatever NAN_OUT is (log 8). -/
def Obligations.RegisterFormsAreExact : Prop :=
  co2Register (-1) = 0xFFFFFFFF ∧
  (∀ raw : Word, co2Register (co2Value raw) = raw.setWidth 32) ∧
  (∀ raw : Word, ∀ q ∈ [tempValue raw, humValue raw],
    binary64Value (realRegister (.value q)) = some q ∧ isNaN (realRegister (.value q)) = false ∧
    q.num.natAbs < 2 ^ 24 ∧ ∃ d, q.den = 2 ^ d) ∧
  realRegister (.value (humValue 0)) = 0 ∧
  isNaN (realRegister .notANumber) = true
end

