-- ==== Sys2Proof/Laws/Crc.lean ====
section
/-! SUPPORT. The engine's functions: the small equations, and that a bit step is additive over XOR. -/

namespace Sys2Proof.Machine

/-- The equivalent form R59 gives: the shifted byte, with the polynomial where bit 7 was set. -/
theorem crcBit_eq (a : Byte) : crcBit a = (a <<< 1) ^^^ (if a.getLsbD 7 then Config.crcPoly else 0) := by
  unfold crcBit
  split <;> simp

@[simp] theorem crcBit_zero : crcBit 0#8 = 0#8 := by decide

/-- A bit step is additive over XOR. -/
theorem crcBit_xor (a b : Byte) : crcBit (a ^^^ b) = crcBit a ^^^ crcBit b := by
  have hshift : (a ^^^ b) <<< 1 = (a <<< 1) ^^^ (b <<< 1) := BitVec.shiftLeft_xor_distrib a b 1
  rw [crcBit_eq, crcBit_eq a, crcBit_eq b, hshift, BitVec.getLsbD_xor]
  generalize a <<< 1 = x
  generalize b <<< 1 = y
  cases a.getLsbD 7 <;> cases b.getLsbD 7 <;> ext i hi <;>
    simp only [Bool.xor_false, Bool.xor_true, Bool.not_false, Bool.not_true, if_true, if_false, Bool.false_eq_true,
      BitVec.getElem_xor] <;>
    cases x[i] <;> cases y[i] <;> cases Config.crcPoly[i] <;> simp

@[simp] theorem crcBits_zero_left (t : Byte) : crcBits 0 t = t := rfl

theorem crcBits_succ (n : Nat) (t : Byte) : crcBits (n + 1) t = crcBits n (crcBit t) := rfl

/-- Any number of bit steps is additive over XOR. -/
theorem crcBits_xor (n : Nat) (a b : Byte) : crcBits n (a ^^^ b) = crcBits n a ^^^ crcBits n b := by
  induction n generalizing a b with
  | zero => rfl
  | succ n ih => simp only [crcBits_succ, crcBit_xor, ih]

@[simp] theorem crcBits_of_zero (n : Nat) : crcBits n 0#8 = 0#8 := by
  induction n with
  | zero => rfl
  | succ n ih => simp [crcBits_succ, ih]

@[simp] theorem crcFrom_nil (a : Byte) : crcFrom a [] = a := rfl

@[simp] theorem crcFrom_cons (a b : Byte) (s : List Byte) : crcFrom a (b :: s) = crcFrom (crcByte a b) s := rfl

theorem crcFrom_append (a : Byte) (s t : List Byte) : crcFrom a (s ++ t) = crcFrom (crcFrom a s) t :=
  List.foldl_append

theorem check_iff (hi lo c : Byte) : check hi lo c = true ↔ crc8 [hi, lo] = c := beq_iff_eq

end Sys2Proof.Machine
end

