-- ==== Sys2Proof/Laws/Decode.lean ====
section
/-! SUPPORT. When each part of the decoder accepts a word, and that a word is its four fields. -/

namespace Sys2Proof

theorem decodePlain_ok {w : Word} {i j : Instr} :
    decodePlain w i = .ok j ↔ resField w = 0#2 ∧ kField w = 0#2 ∧ dataField w = 0#8 ∧ i = j := by
  unfold decodePlain
  by_cases h1 : resField w = 0#2 <;> by_cases h2 : kField w = 0#2 <;> by_cases h3 : dataField w = 0#8 <;>
    simp [h1, h2, h3]

theorem decodeUpdate_ok {w : Word} {j : Instr} :
    decodeUpdate w = .ok j ↔ resField w = 0#2 ∧ kField w = 0#2 ∧ .crcUpdate (dataField w) = j := by
  unfold decodeUpdate
  by_cases h1 : resField w = 0#2 <;> by_cases h2 : kField w = 0#2 <;> simp [h1, h2]

theorem decodeChk_ok {w : Word} {j : Instr} :
    decodeChk w = .ok j ↔
      resField w = 0#2 ∧ dataField w = 0#8 ∧ kField w ≠ 3#2 ∧ .chkWord (kField w) = j := by
  unfold decodeChk
  by_cases h1 : resField w = 0#2 <;> by_cases h2 : dataField w = 0#8 <;> by_cases h3 : kField w = 3#2 <;>
    simp [h1, h2, h3]

/-- Everything the host-word decoder can accept (R52). -/
theorem decodeHostWord_cases {w : Word} {i : Instr} (h : decodeHostWord w = .ok i) :
    (opField w = 1#4 ∧ decodePlain w .crcInit = .ok i) ∨ (opField w = 2#4 ∧ decodeUpdate w = .ok i) ∨
    (opField w = 3#4 ∧ decodePlain w .crcRead = .ok i) ∨ (opField w = 4#4 ∧ decodeChk w = .ok i) ∨
    (opField w = 5#4 ∧ decodePlain w .snsStart = .ok i) ∨ (opField w = 6#4 ∧ decodePlain w .snsFetch = .ok i) ∨
    (opField w = 7#4 ∧ decodePlain w .snsReadCo2 = .ok i) ∨ (opField w = 8#4 ∧ decodePlain w .snsReadTemp = .ok i) ∨
    (opField w = 9#4 ∧ decodePlain w .snsReadHum = .ok i) := by
  unfold decodeHostWord at h
  by_cases h1 : opField w = 1#4
  · rw [if_pos h1] at h; exact .inl ⟨h1, h⟩
  by_cases h2 : opField w = 2#4
  · rw [if_neg h1, if_pos h2] at h; exact .inr (.inl ⟨h2, h⟩)
  by_cases h3 : opField w = 3#4
  · rw [if_neg h1, if_neg h2, if_pos h3] at h; exact .inr (.inr (.inl ⟨h3, h⟩))
  by_cases h4 : opField w = 4#4
  · rw [if_neg h1, if_neg h2, if_neg h3, if_pos h4] at h; exact .inr (.inr (.inr (.inl ⟨h4, h⟩)))
  rw [if_neg h1, if_neg h2, if_neg h3, if_neg h4] at h
  by_cases h5 : opField w = 5#4
  · rw [if_pos h5] at h; exact .inr (.inr (.inr (.inr (.inl ⟨h5, h⟩))))
  by_cases h6 : opField w = 6#4
  · rw [if_neg h5, if_pos h6] at h; exact .inr (.inr (.inr (.inr (.inr (.inl ⟨h6, h⟩)))))
  by_cases h7 : opField w = 7#4
  · rw [if_neg h5, if_neg h6, if_pos h7] at h
    exact .inr (.inr (.inr (.inr (.inr (.inr (.inl ⟨h7, h⟩))))))
  by_cases h8 : opField w = 8#4
  · rw [if_neg h5, if_neg h6, if_neg h7, if_pos h8] at h
    exact .inr (.inr (.inr (.inr (.inr (.inr (.inr (.inl ⟨h8, h⟩)))))))
  by_cases h9 : opField w = 9#4
  · rw [if_neg h5, if_neg h6, if_neg h7, if_neg h8, if_pos h9] at h
    exact .inr (.inr (.inr (.inr (.inr (.inr (.inr (.inr ⟨h9, h⟩)))))))
  · rw [if_neg h5, if_neg h6, if_neg h7, if_neg h8, if_neg h9] at h
    exact absurd h (by simp)

/-- A host word is its four fields (R49). -/
theorem word_fields (w : Word) : w = opField w ++ (resField w ++ (kField w ++ dataField w)) := by
  apply BitVec.eq_of_getLsbD_eq
  intro i hi
  simp only [opField, resField, kField, dataField, BitVec.getLsbD_append, BitVec.getLsbD_extractLsb']
  by_cases h1 : i < 8
  · simp [h1, show i < 12 by omega, show i < 10 by omega]
  · by_cases h2 : i < 10
    · simp [h1, h2, show i < 12 by omega, show i - 8 < 2 by omega, show 8 + (i - 8) = i by omega]
    · by_cases h3 : i < 12
      · simp [h2, h3, show i - 10 < 2 by omega, show 10 + (i - 10) = i by omega]
      · simp [h3, show i - 12 < 4 by omega, show 12 + (i - 12) = i by omega]

end Sys2Proof
end

