-- ==== Sys2Proof/Laws/Memory.lean ====
section
/-! SUPPORT. The response buffer's cells: what a write and a fill leave, that they keep the canonical form, and when
the buffer is full. -/

namespace Sys2Proof.Machine

@[simp] theorem Memory.read_nil (a : Nat) : Memory.read [] a = none := rfl

theorem Memory.read_cons (c : Host.Cell) (m : List Host.Cell) (a : Nat) :
    Memory.read (c :: m) a = if c.1 = a then some c.2 else Memory.read m a := rfl

/-- A read after a write: the value written at its offset, every other offset as before. -/
theorem Memory.read_write_eq (m : List Host.Cell) (a b : Nat) (v : Byte) :
    Memory.read (Memory.write m a v) b = if a = b then some v else Memory.read m b := by
  induction m with
  | nil => rfl
  | cons c m ih =>
    unfold Memory.write
    by_cases hlt : a < c.1
    · simp only [hlt, if_true, Memory.read_cons]
    · by_cases heq : a = c.1
      · subst heq
        by_cases hb : c.1 = b <;> simp [Memory.read_cons, hb]
      · simp only [hlt, heq, if_false, Memory.read_cons, ih]
        by_cases hc : c.1 = b
        · simp [hc, show ¬ a = b from hc ▸ heq]
        · simp [hc]

theorem Memory.wf_tail {c : Host.Cell} {m : List Host.Cell} (h : Memory.wf (c :: m) = true) :
    Memory.wf m = true := by
  cases m with
  | nil => rfl
  | cons d m => simp only [Memory.wf, Bool.and_eq_true] at h; exact h.2

theorem Memory.wf_single (c : Host.Cell) : Memory.wf [c] = true ↔ c.1 < 9 := decide_eq_true_iff

/-- A cell may stand in front of a canonical list whose head, if any, lies above it. -/
theorem Memory.wf_cons {c : Host.Cell} {m : List Host.Cell} (hc : c.1 < 9) (hm : Memory.wf m = true)
    (hhead : ∀ d ∈ m.head?, c.1 < d.1) : Memory.wf (c :: m) = true := by
  cases m with
  | nil => exact (Memory.wf_single c).mpr hc
  | cons d m => simp [Memory.wf, hm, hhead d (by simp)]

/-- Every cell of a canonical list lies in the buffer's space. -/
theorem Memory.wf_head_lt {c : Host.Cell} {m : List Host.Cell} (h : Memory.wf (c :: m) = true) : c.1 < 9 := by
  induction m generalizing c with
  | nil => exact (Memory.wf_single c).mp h
  | cons d m ih =>
    simp only [Memory.wf, Bool.and_eq_true, decide_eq_true_eq] at h
    have := ih h.2
    omega

/-- The head of a written list is the offset written or the head before. -/
theorem Memory.write_head {m : List Host.Cell} {a : Nat} {v : Byte} {d : Host.Cell}
    (h : d ∈ (Memory.write m a v).head?) : d.1 = a ∨ d ∈ m.head? := by
  cases m with
  | nil => simp only [Memory.write, List.head?_cons, Option.mem_some_iff] at h; exact .inl (h ▸ rfl)
  | cons c m =>
    unfold Memory.write at h
    split at h
    · simp only [List.head?_cons, Option.mem_some_iff] at h; exact .inl (h ▸ rfl)
    · split at h <;> simp only [List.head?_cons, Option.mem_some_iff] at h
      · exact .inl (h ▸ rfl)
      · exact .inr (by simp [h])

/-- A write inside the buffer's space keeps the canonical form. -/
theorem Memory.write_keeps_wf {m : List Host.Cell} {a : Nat} (v : Byte) (ha : a < 9)
    (h : Memory.wf m = true) : Memory.wf (Memory.write m a v) = true := by
  induction m with
  | nil => exact (Memory.wf_single (a, v)).mpr ha
  | cons c m ih =>
    unfold Memory.write
    split
    · next hlt => exact Memory.wf_cons ha h (by simpa using hlt)
    · split
      · next hge heq =>
        refine Memory.wf_cons ha (Memory.wf_tail h) fun d hd => ?_
        cases m with
        | nil => simp at hd
        | cons e m =>
          simp only [Memory.wf, Bool.and_eq_true, decide_eq_true_eq] at h
          simp only [List.head?_cons, Option.mem_some_iff] at hd
          show a < d.1
          rw [← hd, heq]; exact h.1
      · next hge hne =>
        refine Memory.wf_cons (Memory.wf_head_lt h) (ih (Memory.wf_tail h)) fun d hd => ?_
        rcases Memory.write_head hd with hd | hd
        · omega
        · cases m with
          | nil => simp at hd
          | cons e m =>
            simp only [Memory.wf, Bool.and_eq_true, decide_eq_true_eq] at h
            simp only [List.head?_cons, Option.mem_some_iff] at hd
            rw [← hd]; exact h.1

/-- A fill inside the buffer's space keeps the canonical form. -/
theorem Memory.fill_keeps_wf {m : List Host.Cell} {a : Nat} {bs : List Byte} (ha : a + bs.length ≤ 9)
    (h : Memory.wf m = true) : Memory.wf (Memory.fill m a bs) = true := by
  induction bs generalizing m a with
  | nil => exact h
  | cons b bs ih =>
    simp only [List.length_cons] at ha
    exact ih (by omega) (Memory.write_keeps_wf b (by omega) h)

/-- A read after a fill: the byte filled in, or the byte before outside the filled offsets. -/
theorem Memory.read_fill_eq (m : List Host.Cell) (a b : Nat) (bs : List Byte) :
    Memory.read (Memory.fill m a bs) b =
      if a ≤ b ∧ b < a + bs.length then bs[b - a]? else Memory.read m b := by
  induction bs generalizing m a with
  | nil => simp [Memory.fill]
  | cons v bs ih =>
    simp only [Memory.fill, ih, Memory.read_write_eq, List.length_cons]
    by_cases h1 : a = b
    · subst h1; simp
    · by_cases h2 : a ≤ b
      · have h3 : a + 1 ≤ b := by omega
        have h4 : b - a = (b - (a + 1)) + 1 := by omega
        by_cases h5 : b < a + 1 + bs.length
        · simp [h3, h5, h2, show b < a + (bs.length + 1) by omega, h4]
        · simp [h5, h1, show ¬ b < a + (bs.length + 1) by omega]
      · simp [h2, h1, show ¬ a + 1 ≤ b by omega]

/-- Nine bytes filled in from offset 0 are the whole buffer. -/
theorem Memory.full_fill (m : List Host.Cell) {bs : List Byte} (h : bs.length = 9) :
    Memory.full (Memory.fill m 0 bs) = true := by
  simp only [Memory.full, List.all_eq_true, List.mem_range, Config.respLen]
  intro i hi
  simp [Memory.read_fill_eq, h, hi]

theorem Memory.full_read {m : List Host.Cell} (h : Memory.full m = true) {a : Nat} (ha : a < 9) :
    ∃ v, Memory.read m a = some v := by
  simp only [Memory.full, List.all_eq_true, List.mem_range, Config.respLen] at h
  exact Option.isSome_iff_exists.mp (h a ha)

theorem reset_buf_wf : Memory.wf State.reset.buf = true := rfl

end Sys2Proof.Machine
end

