-- ==== Sys2Proof/Laws/State.lean ====
section
/-! SUPPORT. What each update of the state does to each field: one lemma per field per update. -/

namespace Sys2Proof.Machine

variable (s : State)

/-! ### `State.setAcc` -/

@[simp] theorem State.setAcc_acc (v : Byte) : (s.setAcc v).acc = some v := rfl
@[simp] theorem State.setAcc_buf (v : Byte) : (s.setAcc v).buf = s.buf := rfl
@[simp] theorem State.setAcc_bufValid (v : Byte) : (s.setAcc v).bufValid = s.bufValid := rfl
@[simp] theorem State.setAcc_trace (v : Byte) : (s.setAcc v).trace = s.trace := rfl
@[simp] theorem State.setAcc_fault (v : Byte) : (s.setAcc v).fault = s.fault := rfl
@[simp] theorem State.setAcc_pc (v : Byte) : (s.setAcc v).pc = s.pc := rfl
@[simp] theorem State.setAcc_program (v : Byte) : (s.setAcc v).program = s.program := rfl
@[simp] theorem State.setAcc_writeReplies (v : Byte) : (s.setAcc v).writeReplies = s.writeReplies := rfl
@[simp] theorem State.setAcc_readReplies (v : Byte) : (s.setAcc v).readReplies = s.readReplies := rfl
@[simp] theorem State.setAcc_delayReplies (v : Byte) : (s.setAcc v).delayReplies = s.delayReplies := rfl
@[simp] theorem State.setAcc_draws (v : Byte) : (s.setAcc v).draws = s.draws := rfl
@[simp] theorem State.setAcc_outputs (v : Byte) : (s.setAcc v).outputs = s.outputs := rfl
@[simp] theorem State.setAcc_stuck (v : Byte) : (s.setAcc v).stuck = s.stuck := rfl

/-! ### `State.fillBuf` -/

@[simp] theorem State.fillBuf_acc (bs : List Byte) : (s.fillBuf bs).acc = s.acc := rfl
@[simp] theorem State.fillBuf_buf (bs : List Byte) : (s.fillBuf bs).buf = Memory.fill s.buf 0 bs := rfl
@[simp] theorem State.fillBuf_bufValid (bs : List Byte) : (s.fillBuf bs).bufValid = s.bufValid := rfl
@[simp] theorem State.fillBuf_trace (bs : List Byte) : (s.fillBuf bs).trace = s.trace := rfl
@[simp] theorem State.fillBuf_fault (bs : List Byte) : (s.fillBuf bs).fault = s.fault := rfl
@[simp] theorem State.fillBuf_pc (bs : List Byte) : (s.fillBuf bs).pc = s.pc := rfl
@[simp] theorem State.fillBuf_program (bs : List Byte) : (s.fillBuf bs).program = s.program := rfl
@[simp] theorem State.fillBuf_writeReplies (bs : List Byte) : (s.fillBuf bs).writeReplies = s.writeReplies := rfl
@[simp] theorem State.fillBuf_readReplies (bs : List Byte) : (s.fillBuf bs).readReplies = s.readReplies := rfl
@[simp] theorem State.fillBuf_delayReplies (bs : List Byte) : (s.fillBuf bs).delayReplies = s.delayReplies := rfl
@[simp] theorem State.fillBuf_draws (bs : List Byte) : (s.fillBuf bs).draws = s.draws := rfl
@[simp] theorem State.fillBuf_outputs (bs : List Byte) : (s.fillBuf bs).outputs = s.outputs := rfl
@[simp] theorem State.fillBuf_stuck (bs : List Byte) : (s.fillBuf bs).stuck = s.stuck := rfl

/-! ### `State.setBufValid` -/

@[simp] theorem State.setBufValid_acc (v : Bool) : (s.setBufValid v).acc = s.acc := rfl
@[simp] theorem State.setBufValid_buf (v : Bool) : (s.setBufValid v).buf = s.buf := rfl
@[simp] theorem State.setBufValid_bufValid (v : Bool) : (s.setBufValid v).bufValid = v := rfl
@[simp] theorem State.setBufValid_trace (v : Bool) : (s.setBufValid v).trace = s.trace := rfl
@[simp] theorem State.setBufValid_fault (v : Bool) : (s.setBufValid v).fault = s.fault := rfl
@[simp] theorem State.setBufValid_pc (v : Bool) : (s.setBufValid v).pc = s.pc := rfl
@[simp] theorem State.setBufValid_program (v : Bool) : (s.setBufValid v).program = s.program := rfl
@[simp] theorem State.setBufValid_writeReplies (v : Bool) : (s.setBufValid v).writeReplies = s.writeReplies := rfl
@[simp] theorem State.setBufValid_readReplies (v : Bool) : (s.setBufValid v).readReplies = s.readReplies := rfl
@[simp] theorem State.setBufValid_delayReplies (v : Bool) : (s.setBufValid v).delayReplies = s.delayReplies := rfl
@[simp] theorem State.setBufValid_draws (v : Bool) : (s.setBufValid v).draws = s.draws := rfl
@[simp] theorem State.setBufValid_outputs (v : Bool) : (s.setBufValid v).outputs = s.outputs := rfl
@[simp] theorem State.setBufValid_stuck (v : Bool) : (s.setBufValid v).stuck = s.stuck := rfl

/-! ### `State.record` -/

@[simp] theorem State.record_acc (e : Event) : (s.record e).acc = s.acc := rfl
@[simp] theorem State.record_buf (e : Event) : (s.record e).buf = s.buf := rfl
@[simp] theorem State.record_bufValid (e : Event) : (s.record e).bufValid = s.bufValid := rfl
@[simp] theorem State.record_trace (e : Event) : (s.record e).trace = s.trace ++ [e] := rfl
@[simp] theorem State.record_fault (e : Event) : (s.record e).fault = s.fault := rfl
@[simp] theorem State.record_pc (e : Event) : (s.record e).pc = s.pc := rfl
@[simp] theorem State.record_program (e : Event) : (s.record e).program = s.program := rfl
@[simp] theorem State.record_writeReplies (e : Event) : (s.record e).writeReplies = s.writeReplies := rfl
@[simp] theorem State.record_readReplies (e : Event) : (s.record e).readReplies = s.readReplies := rfl
@[simp] theorem State.record_delayReplies (e : Event) : (s.record e).delayReplies = s.delayReplies := rfl
@[simp] theorem State.record_draws (e : Event) : (s.record e).draws = s.draws := rfl
@[simp] theorem State.record_outputs (e : Event) : (s.record e).outputs = s.outputs := rfl
@[simp] theorem State.record_stuck (e : Event) : (s.record e).stuck = s.stuck := rfl

/-! ### `State.setStuck` -/

@[simp] theorem State.setStuck_acc : (s.setStuck).acc = s.acc := rfl
@[simp] theorem State.setStuck_buf : (s.setStuck).buf = s.buf := rfl
@[simp] theorem State.setStuck_bufValid : (s.setStuck).bufValid = s.bufValid := rfl
@[simp] theorem State.setStuck_trace : (s.setStuck).trace = s.trace := rfl
@[simp] theorem State.setStuck_fault : (s.setStuck).fault = s.fault := rfl
@[simp] theorem State.setStuck_pc : (s.setStuck).pc = s.pc := rfl
@[simp] theorem State.setStuck_program : (s.setStuck).program = s.program := rfl
@[simp] theorem State.setStuck_writeReplies : (s.setStuck).writeReplies = s.writeReplies := rfl
@[simp] theorem State.setStuck_readReplies : (s.setStuck).readReplies = s.readReplies := rfl
@[simp] theorem State.setStuck_delayReplies : (s.setStuck).delayReplies = s.delayReplies := rfl
@[simp] theorem State.setStuck_draws : (s.setStuck).draws = s.draws := rfl
@[simp] theorem State.setStuck_outputs : (s.setStuck).outputs = s.outputs := rfl
@[simp] theorem State.setStuck_stuck : (s.setStuck).stuck = true := rfl

/-! ### `State.raise` -/

@[simp] theorem State.raise_acc (f : FaultRecord) : (s.raise f).acc = s.acc := rfl
@[simp] theorem State.raise_buf (f : FaultRecord) : (s.raise f).buf = s.buf := rfl
@[simp] theorem State.raise_bufValid (f : FaultRecord) : (s.raise f).bufValid = s.bufValid := rfl
@[simp] theorem State.raise_trace (f : FaultRecord) : (s.raise f).trace = s.trace := rfl
@[simp] theorem State.raise_fault (f : FaultRecord) : (s.raise f).fault = some f := rfl
@[simp] theorem State.raise_pc (f : FaultRecord) : (s.raise f).pc = s.pc := rfl
@[simp] theorem State.raise_program (f : FaultRecord) : (s.raise f).program = s.program := rfl
@[simp] theorem State.raise_writeReplies (f : FaultRecord) : (s.raise f).writeReplies = s.writeReplies := rfl
@[simp] theorem State.raise_readReplies (f : FaultRecord) : (s.raise f).readReplies = s.readReplies := rfl
@[simp] theorem State.raise_delayReplies (f : FaultRecord) : (s.raise f).delayReplies = s.delayReplies := rfl
@[simp] theorem State.raise_draws (f : FaultRecord) : (s.raise f).draws = s.draws := rfl
@[simp] theorem State.raise_outputs (f : FaultRecord) : (s.raise f).outputs = s.outputs := rfl
@[simp] theorem State.raise_stuck (f : FaultRecord) : (s.raise f).stuck = s.stuck := rfl

/-! ### `State.complete` -/

@[simp] theorem State.complete_acc (o : Output) : (s.complete o).acc = s.acc := rfl
@[simp] theorem State.complete_buf (o : Output) : (s.complete o).buf = s.buf := rfl
@[simp] theorem State.complete_bufValid (o : Output) : (s.complete o).bufValid = s.bufValid := rfl
@[simp] theorem State.complete_trace (o : Output) : (s.complete o).trace = s.trace := rfl
@[simp] theorem State.complete_fault (o : Output) : (s.complete o).fault = s.fault := rfl
@[simp] theorem State.complete_pc (o : Output) : (s.complete o).pc = s.pc + 1 := rfl
@[simp] theorem State.complete_program (o : Output) : (s.complete o).program = s.program := rfl
@[simp] theorem State.complete_writeReplies (o : Output) : (s.complete o).writeReplies = s.writeReplies := rfl
@[simp] theorem State.complete_readReplies (o : Output) : (s.complete o).readReplies = s.readReplies := rfl
@[simp] theorem State.complete_delayReplies (o : Output) : (s.complete o).delayReplies = s.delayReplies := rfl
@[simp] theorem State.complete_draws (o : Output) : (s.complete o).draws = s.draws := rfl
@[simp] theorem State.complete_outputs (o : Output) : (s.complete o).outputs = s.outputs ++ [o] := rfl
@[simp] theorem State.complete_stuck (o : Output) : (s.complete o).stuck = s.stuck := rfl

/-! ### `State.resetBlock` -/

@[simp] theorem State.resetBlock_acc : (s.resetBlock).acc = none := rfl
@[simp] theorem State.resetBlock_buf : (s.resetBlock).buf = [] := rfl
@[simp] theorem State.resetBlock_bufValid : (s.resetBlock).bufValid = false := rfl
@[simp] theorem State.resetBlock_trace : (s.resetBlock).trace = [] := rfl
@[simp] theorem State.resetBlock_fault : (s.resetBlock).fault = none := rfl
@[simp] theorem State.resetBlock_pc : (s.resetBlock).pc = 0 := rfl
@[simp] theorem State.resetBlock_program : (s.resetBlock).program = s.program := rfl
@[simp] theorem State.resetBlock_writeReplies : (s.resetBlock).writeReplies = s.writeReplies := rfl
@[simp] theorem State.resetBlock_readReplies : (s.resetBlock).readReplies = s.readReplies := rfl
@[simp] theorem State.resetBlock_delayReplies : (s.resetBlock).delayReplies = s.delayReplies := rfl
@[simp] theorem State.resetBlock_draws : (s.resetBlock).draws = s.draws := rfl
@[simp] theorem State.resetBlock_outputs : (s.resetBlock).outputs = [] := rfl
@[simp] theorem State.resetBlock_stuck : (s.resetBlock).stuck = false := rfl

/-! ### `State.drewWrite` -/

@[simp] theorem State.drewWrite_acc : (s.drewWrite).acc = s.acc := rfl
@[simp] theorem State.drewWrite_buf : (s.drewWrite).buf = s.buf := rfl
@[simp] theorem State.drewWrite_bufValid : (s.drewWrite).bufValid = s.bufValid := rfl
@[simp] theorem State.drewWrite_trace : (s.drewWrite).trace = s.trace := rfl
@[simp] theorem State.drewWrite_fault : (s.drewWrite).fault = s.fault := rfl
@[simp] theorem State.drewWrite_pc : (s.drewWrite).pc = s.pc := rfl
@[simp] theorem State.drewWrite_program : (s.drewWrite).program = s.program := rfl
@[simp] theorem State.drewWrite_writeReplies : (s.drewWrite).writeReplies = s.writeReplies.tail := rfl
@[simp] theorem State.drewWrite_readReplies : (s.drewWrite).readReplies = s.readReplies := rfl
@[simp] theorem State.drewWrite_delayReplies : (s.drewWrite).delayReplies = s.delayReplies := rfl
@[simp] theorem State.drewWrite_draws : (s.drewWrite).draws = s.draws + 1 := rfl
@[simp] theorem State.drewWrite_outputs : (s.drewWrite).outputs = s.outputs := rfl
@[simp] theorem State.drewWrite_stuck : (s.drewWrite).stuck = s.stuck := rfl

/-! ### `State.drewRead` -/

@[simp] theorem State.drewRead_acc : (s.drewRead).acc = s.acc := rfl
@[simp] theorem State.drewRead_buf : (s.drewRead).buf = s.buf := rfl
@[simp] theorem State.drewRead_bufValid : (s.drewRead).bufValid = s.bufValid := rfl
@[simp] theorem State.drewRead_trace : (s.drewRead).trace = s.trace := rfl
@[simp] theorem State.drewRead_fault : (s.drewRead).fault = s.fault := rfl
@[simp] theorem State.drewRead_pc : (s.drewRead).pc = s.pc := rfl
@[simp] theorem State.drewRead_program : (s.drewRead).program = s.program := rfl
@[simp] theorem State.drewRead_writeReplies : (s.drewRead).writeReplies = s.writeReplies := rfl
@[simp] theorem State.drewRead_readReplies : (s.drewRead).readReplies = s.readReplies.tail := rfl
@[simp] theorem State.drewRead_delayReplies : (s.drewRead).delayReplies = s.delayReplies := rfl
@[simp] theorem State.drewRead_draws : (s.drewRead).draws = s.draws + 1 := rfl
@[simp] theorem State.drewRead_outputs : (s.drewRead).outputs = s.outputs := rfl
@[simp] theorem State.drewRead_stuck : (s.drewRead).stuck = s.stuck := rfl

/-! ### `State.drewDelay` -/

@[simp] theorem State.drewDelay_acc : (s.drewDelay).acc = s.acc := rfl
@[simp] theorem State.drewDelay_buf : (s.drewDelay).buf = s.buf := rfl
@[simp] theorem State.drewDelay_bufValid : (s.drewDelay).bufValid = s.bufValid := rfl
@[simp] theorem State.drewDelay_trace : (s.drewDelay).trace = s.trace := rfl
@[simp] theorem State.drewDelay_fault : (s.drewDelay).fault = s.fault := rfl
@[simp] theorem State.drewDelay_pc : (s.drewDelay).pc = s.pc := rfl
@[simp] theorem State.drewDelay_program : (s.drewDelay).program = s.program := rfl
@[simp] theorem State.drewDelay_writeReplies : (s.drewDelay).writeReplies = s.writeReplies := rfl
@[simp] theorem State.drewDelay_readReplies : (s.drewDelay).readReplies = s.readReplies := rfl
@[simp] theorem State.drewDelay_delayReplies : (s.drewDelay).delayReplies = s.delayReplies.tail := rfl
@[simp] theorem State.drewDelay_draws : (s.drewDelay).draws = s.draws + 1 := rfl
@[simp] theorem State.drewDelay_outputs : (s.drewDelay).outputs = s.outputs := rfl
@[simp] theorem State.drewDelay_stuck : (s.drewDelay).stuck = s.stuck := rfl

end Sys2Proof.Machine
end

