-- ==== Sys2Proof/Laws/Ops.lean ====
section
/-! SUPPORT. Everything each shared operation can do, said once: the primitives, `fetch_body`, the parse of a word and
the end of an operation. -/

namespace Sys2Proof.Machine

/-! ### The environment's answers read only their own fields -/

theorem nextRead_congr {s t : State} (hr : s.readReplies = t.readReplies) (hd : s.draws = t.draws) :
    s.nextRead = t.nextRead := by simp only [State.nextRead, hr, hd]

theorem nextDelay_congr {s t : State} (hr : s.delayReplies = t.delayReplies) (hd : s.draws = t.draws) :
    s.nextDelay = t.nextDelay := by simp only [State.nextDelay, hr, hd]

theorem nextWrite_congr {s t : State} (hr : s.writeReplies = t.writeReplies) (hd : s.draws = t.draws) :
    s.nextWrite = t.nextWrite := by simp only [State.nextWrite, hr, hd]

@[simp] theorem nextRead_record (s : State) (e : Event) : (s.record e).nextRead = s.nextRead := rfl

@[simp] theorem nextDelay_record (s : State) (e : Event) : (s.record e).nextDelay = s.nextDelay := rfl

/-! ### The primitives -/

/-- Everything a bus write can do (R81). -/
theorem busWrite_cases (addr : Addr7) (w : Word) (s : State) :
    (s.nextWrite = .done ∧ busWrite addr w s = .completed () (s.drewWrite.record (.write addr w))) ∨
    (∃ f, s.nextWrite = .failed f ∧
      busWrite addr w s = .failed (.transport (.reported f) addr (.write w)) s.drewWrite) ∨
    (s.nextWrite = .never ∧ busWrite addr w s = .pending s.drewWrite) := by
  unfold busWrite
  cases h : s.nextWrite with
  | done => exact .inl ⟨rfl, rfl⟩
  | failed f => exact .inr (.inl ⟨f, rfl, rfl⟩)
  | never => exact .inr (.inr ⟨rfl, rfl⟩)

/-- Everything a bus read can do (R81, R36). -/
theorem busRead_cases (addr : Addr7) (n : Nat) (s : State) :
    (∃ bs, s.nextRead = .bytes bs ∧ bs.length = n ∧
      busRead addr n s = .completed bs (s.drewRead.record (.read addr n bs))) ∨
    (∃ bs, s.nextRead = .bytes bs ∧ bs.length ≠ n ∧
      busRead addr n s = .failed (.transport .shortRead addr (.read n)) s.drewRead) ∨
    (∃ f, s.nextRead = .failed f ∧
      busRead addr n s = .failed (.transport (.reported f) addr (.read n)) s.drewRead) ∨
    (s.nextRead = .never ∧ busRead addr n s = .pending s.drewRead) := by
  unfold busRead
  cases h : s.nextRead with
  | bytes bs =>
    by_cases hl : bs.length = n
    · exact .inl ⟨bs, rfl, hl, by simp [hl]⟩
    · exact .inr (.inl ⟨bs, rfl, hl, by simp [hl]⟩)
  | failed f => exact .inr (.inr (.inl ⟨f, rfl, rfl⟩))
  | never => exact .inr (.inr (.inr ⟨rfl, rfl⟩))

/-- Everything a delay can do (R81, R84). -/
theorem busDelay_cases (ms : Nat) (s : State) :
    (s.nextDelay = .elapsed ∧ busDelay ms s = .completed () (s.drewDelay.record (.delay ms))) ∨
    (s.nextDelay = .never ∧ busDelay ms s = .pending s.drewDelay) := by
  unfold busDelay
  cases h : s.nextDelay with
  | elapsed => exact .inl ⟨rfl, rfl⟩
  | never => exact .inr ⟨rfl, rfl⟩

@[simp] theorem andThen_completed {α β : Type} (a : α) (s : State) (k : α → State → BusResult β) :
    (BusResult.completed a s).andThen k = k a s := rfl

@[simp] theorem andThen_failed {α β : Type} (f : FaultRecord) (s : State) (k : α → State → BusResult β) :
    (BusResult.failed f s).andThen k = .failed f s := rfl

@[simp] theorem andThen_pending {α β : Type} (s : State) (k : α → State → BusResult β) :
    (BusResult.pending s).andThen k = .pending s := rfl

@[simp] theorem endState_completed {α : Type} (a : α) (s : State) (k : α → State → State) :
    (BusResult.completed a s).endState k = k a s := rfl

@[simp] theorem endState_failed {α : Type} (f : FaultRecord) (s : State) (k : α → State → State) :
    (BusResult.failed f s).endState k = s.raise f := rfl

@[simp] theorem endState_pending {α : Type} (s : State) (k : α → State → State) :
    (BusResult.pending s).endState k = s.setStuck := rfl

/-! ### `fetch_body` -/

/-- The state after the command write of `fetch_body` completed. -/
def afterCommand (s : State) : State := s.drewWrite.record (.write Config.devAddr Config.cmdRead)

/-- The state after `fetch_body` completed with the bytes `bs`. -/
def afterFetch (s : State) (bs : List Byte) : State :=
  (((((afterCommand s).drewRead).record (.read Config.devAddr Config.respLen bs)).fillBuf bs).setBufValid true)

/-- Everything `fetch_body` can do (R87, R88). -/
theorem fetchBody_cases (s : State) :
    (∃ bs, s.nextWrite = .done ∧ s.drewWrite.nextRead = .bytes bs ∧ bs.length = 9 ∧
      fetchBody s = .completed () (afterFetch s bs)) ∨
    (∃ f, s.nextWrite = .failed f ∧ fetchBody s =
      .failed (.transport (.reported f) Config.devAddr (.write Config.cmdRead)) (s.drewWrite.setBufValid false)) ∨
    (∃ bs, s.nextWrite = .done ∧ s.drewWrite.nextRead = .bytes bs ∧ bs.length ≠ 9 ∧ fetchBody s =
      .failed (.transport .shortRead Config.devAddr (.read 9)) ((afterCommand s).drewRead.setBufValid false)) ∨
    (∃ f, s.nextWrite = .done ∧ s.drewWrite.nextRead = .failed f ∧ fetchBody s =
      .failed (.transport (.reported f) Config.devAddr (.read 9)) ((afterCommand s).drewRead.setBufValid false)) ∨
    (s.nextWrite = .never ∧ fetchBody s = .pending s.drewWrite) ∨
    (s.nextWrite = .done ∧ s.drewWrite.nextRead = .never ∧ fetchBody s = .pending (afterCommand s).drewRead) := by
  unfold fetchBody fetchTransaction
  rcases busWrite_cases Config.devAddr Config.cmdRead s with ⟨hw, he⟩ | ⟨f, hw, he⟩ | ⟨hw, he⟩
  · rcases busRead_cases Config.devAddr Config.respLen (afterCommand s) with
      ⟨bs, hr, hl, hb⟩ | ⟨bs, hr, hl, hb⟩ | ⟨f, hr, hb⟩ | ⟨hr, hb⟩
    · exact .inl ⟨bs, hw, hr, hl, by rw [he, andThen_completed, ← afterCommand, hb]; rfl⟩
    · exact .inr (.inr (.inl ⟨bs, hw, hr, hl, by rw [he, andThen_completed, ← afterCommand, hb]; rfl⟩))
    · exact .inr (.inr (.inr (.inl ⟨f, hw, hr, by rw [he, andThen_completed, ← afterCommand, hb]; rfl⟩)))
    · exact .inr (.inr (.inr (.inr (.inr ⟨hw, hr, by rw [he, andThen_completed, ← afterCommand, hb]; rfl⟩))))
  · exact .inr (.inl ⟨f, hw, by rw [he]; rfl⟩)
  · exact .inr (.inr (.inr (.inr (.inl ⟨hw, by rw [he]; rfl⟩))))

/-! ### The parse of a word -/

/-- The parse of word k reads its three bytes and nothing else (R71-R73). -/
theorem parseWord_of_bytes {s : State} {k : BitVec 2} {hi lo c : Byte}
    (h0 : Memory.read s.buf (3 * k.toNat) = some hi) (h1 : Memory.read s.buf (3 * k.toNat + 1) = some lo)
    (h2 : Memory.read s.buf (3 * k.toNat + 2) = some c) :
    s.parseWord k = some (bigEndian hi lo, check hi lo c) := by
  simp only [State.parseWord, State.memRead2, State.checkWord, wordOff, crcOff, h0, h1, h2]

/-- A word of a full buffer parses. -/
theorem parseWord_of_full {s : State} {k : BitVec 2} (hf : Memory.full s.buf = true) (hk : wordIndexOk k = true) :
    ∃ hi lo c, Memory.read s.buf (3 * k.toNat) = some hi ∧ Memory.read s.buf (3 * k.toNat + 1) = some lo ∧
      Memory.read s.buf (3 * k.toNat + 2) = some c ∧
      s.parseWord k = some (bigEndian hi lo, check hi lo c) := by
  have hk3 : k.toNat < 3 := by
    have hne : k ≠ 3#2 := by simpa [wordIndexOk] using hk
    have : k.toNat ≠ 3 := fun h => hne (BitVec.eq_of_toNat_eq h)
    have := k.isLt
    omega
  obtain ⟨hi, h0⟩ := Memory.full_read hf (a := 3 * k.toNat) (by omega)
  obtain ⟨lo, h1⟩ := Memory.full_read hf (a := 3 * k.toNat + 1) (by omega)
  obtain ⟨c, h2⟩ := Memory.full_read hf (a := 3 * k.toNat + 2) (by omega)
  exact ⟨hi, lo, c, h0, h1, h2, parseWord_of_bytes h0 h1 h2⟩

/-- Whatever is put behind a read of a full buffer, the operation completes and clears `buf_valid` (R92-R94). -/
theorem finishRead_of_full {s : State} {k : BitVec 2} {output : Word → Bool → Output}
    (hf : Memory.full s.buf = true) (hk : wordIndexOk k = true) :
    ∃ raw v, s.parseWord k = some (raw, v) ∧
      finishRead k output s = (s.setBufValid false).complete (output raw v) := by
  obtain ⟨hi, lo, c, -, -, -, hp⟩ := parseWord_of_full hf hk
  exact ⟨_, _, hp, by simp only [finishRead, hp]⟩

theorem afterFetch_full (s : State) {bs : List Byte} (h : bs.length = 9) :
    Memory.full (afterFetch s bs).buf = true :=
  Memory.full_fill _ h

/-- The bytes read after `fetch_body` are the response's. -/
theorem afterFetch_read (s : State) {bs : List Byte} (h : bs.length = 9) {a : Nat} (ha : a < 9) :
    Memory.read (afterFetch s bs).buf a = bs[a]? := by
  show Memory.read (Memory.fill s.buf 0 bs) a = bs[a]?
  simp [Memory.read_fill_eq, h, ha]

/-- The raw word of R31 counts its high byte 256 times. -/
theorem bigEndian_toNat (hi lo : Byte) : (bigEndian hi lo).toNat = hi.toNat * 256 + lo.toNat := by
  have h1 := hi.isLt
  have h2 := lo.isLt
  simp only [bigEndian, BitVec.toNat_or, BitVec.toNat_shiftLeft, BitVec.toNat_setWidth]
  have e1 : hi.toNat % 2 ^ 16 = hi.toNat := Nat.mod_eq_of_lt (by omega)
  have e2 : lo.toNat % 2 ^ 16 = lo.toNat := Nat.mod_eq_of_lt (by omega)
  have e3 : hi.toNat <<< 8 % 2 ^ 16 = hi.toNat <<< 8 := by
    rw [Nat.shiftLeft_eq]; exact Nat.mod_eq_of_lt (by omega)
  rw [e1, e2, e3, ← Nat.shiftLeft_add_eq_or_of_lt (by omega), Nat.shiftLeft_eq]

end Sys2Proof.Machine
end

