-- ==== Sys2Proof/Laws/Step.lean ====
section
/-! SUPPORT. Everything `step` can do, said once; and that a placed word is the word fetched. -/

namespace Sys2Proof.Machine

/-- No instruction stops the machine by itself: each ends in a next state. -/
theorem exec_next (i : Instr) (s : State) : ∃ t, exec i s = .next t := by
  cases i with
  | crcInit => exact ⟨_, rfl⟩
  | crcUpdate b =>
    simp only [exec, execCrcUpdate]
    split <;> exact ⟨_, rfl⟩
  | crcRead =>
    simp only [exec, execCrcRead]
    split <;> exact ⟨_, rfl⟩
  | chkWord k =>
    simp only [exec, execChkWord]
    split
    · split
      · split <;> exact ⟨_, rfl⟩
      · exact ⟨_, rfl⟩
    · exact ⟨_, rfl⟩
  | snsStart => exact ⟨_, rfl⟩
  | snsFetch => exact ⟨_, rfl⟩
  | snsReadCo2 => exact ⟨_, rfl⟩
  | snsReadTemp => exact ⟨_, rfl⟩
  | snsReadHum => exact ⟨_, rfl⟩
  | busStart => exact ⟨_, rfl⟩
  | busRead => exact ⟨_, rfl⟩

/-- Everything a step that answers a next state can be. -/
theorem step_cases {s t : State} (h : step s = .next t) :
    s.fault = none ∧ s.stuck = false ∧ ∃ w, s.program[s.pc]? = some w ∧
      ((∃ i, decode .hostop w = .ok i ∧ exec i s = .next t) ∨
       (∃ e, decode .hostop w = .error e ∧ t = s.raise (.refused w))) := by
  unfold step fetch at h
  cases hf : s.fault with
  | some f => simp [hf] at h
  | none =>
    cases hs : s.stuck with
    | true => simp [hf, hs] at h
    | false =>
      cases hw : s.program[s.pc]? with
      | none => simp [hf, hs, hw] at h
      | some w =>
        refine ⟨rfl, rfl, w, rfl, ?_⟩
        simp only [hf, hs, hw, fetchWord, Option.isSome_none, Bool.false_eq_true, if_false] at h
        cases hd : decode .hostop w with
        | ok i => simp only [hd] at h; exact .inl ⟨i, rfl, h⟩
        | error e =>
          simp only [hd, refuseWord] at h
          exact .inr ⟨e, rfl, by injection h with h; exact h.symm⟩

/-- The word placed is the word found. -/
theorem placeWord_get (p : List Word) (n : Nat) (w : Word) : (placeWord p n w)[n]? = some w := by
  have hlen : (p.take n ++ List.replicate (n - p.length) (0 : Word)).length = n := by
    simp only [List.length_append, List.length_take, List.length_replicate]
    omega
  unfold placeWord
  rw [List.append_assoc, List.append_assoc, ← List.append_assoc (p.take n),
    List.getElem?_append_right (by omega), hlen]
  simp

/-- What `withFetchWord` places is what `step` takes next. -/
theorem fetch_withFetchWord (s : State) (nbits w : Nat) :
    fetch (s.withFetchWord nbits w) = fetchWord (tableWord nbits w) := by
  unfold fetch State.withFetchWord
  simp [placeWord_get]

end Sys2Proof.Machine
end

