-- ==== Sys2Proof/Laws/Exec.lean ====
section
/-! SUPPORT. Everything each bus operation can do, said once: which next state, under which answers of the transport. -/

namespace Sys2Proof.Machine

/-- A read of the sensor, whichever word and conversion (R92-R94): the reading of a fresh response, or the fault or
hang of the primitive that did not complete. -/
theorem readOp_cases {k : BitVec 2} (hk : wordIndexOk k = true) (output : Word → Bool → Output) (s : State) :
    let t := (fetchBody s).endState fun _ s1 => finishRead k output s1
    (∃ bs raw v, s.nextWrite = .done ∧ s.drewWrite.nextRead = .bytes bs ∧ bs.length = 9 ∧
      (afterFetch s bs).parseWord k = some (raw, v) ∧
      t = ((afterFetch s bs).setBufValid false).complete (output raw v)) ∨
    (∃ f, s.nextWrite = .failed f ∧ t = (s.drewWrite.setBufValid false).raise
      (.transport (.reported f) Config.devAddr (.write Config.cmdRead))) ∨
    (∃ bs, s.nextWrite = .done ∧ s.drewWrite.nextRead = .bytes bs ∧ bs.length ≠ 9 ∧
      t = ((afterCommand s).drewRead.setBufValid false).raise (.transport .shortRead Config.devAddr (.read 9))) ∨
    (∃ f, s.nextWrite = .done ∧ s.drewWrite.nextRead = .failed f ∧
      t = ((afterCommand s).drewRead.setBufValid false).raise
        (.transport (.reported f) Config.devAddr (.read 9))) ∨
    (s.nextWrite = .never ∧ t = s.drewWrite.setStuck) ∨
    (s.nextWrite = .done ∧ s.drewWrite.nextRead = .never ∧ t = (afterCommand s).drewRead.setStuck) := by
  intro t
  rcases fetchBody_cases s with ⟨bs, hw, hr, hl, he⟩ | ⟨f, hw, he⟩ | ⟨bs, hw, hr, hl, he⟩ | ⟨f, hw, hr, he⟩ |
    ⟨hw, he⟩ | ⟨hw, hr, he⟩
  · obtain ⟨raw, v, hp, hfin⟩ := finishRead_of_full (output := output) (afterFetch_full s hl) hk
    exact .inl ⟨bs, raw, v, hw, hr, hl, hp, by simp only [t, he, endState_completed, hfin]⟩
  · exact .inr (.inl ⟨f, hw, by simp only [t, he, endState_failed]⟩)
  · exact .inr (.inr (.inl ⟨bs, hw, hr, hl, by simp only [t, he, endState_failed]⟩))
  · exact .inr (.inr (.inr (.inl ⟨f, hw, hr, by simp only [t, he, endState_failed]⟩)))
  · exact .inr (.inr (.inr (.inr (.inl ⟨hw, by simp only [t, he, endState_pending]⟩))))
  · exact .inr (.inr (.inr (.inr (.inr ⟨hw, hr, by simp only [t, he, endState_pending]⟩))))

/-- SNS.FETCH (R87, R88). -/
theorem execSnsFetch_cases (s : State) :
    (∃ bs, s.nextWrite = .done ∧ s.drewWrite.nextRead = .bytes bs ∧ bs.length = 9 ∧
      execSnsFetch s = .next ((afterFetch s bs).complete .empty)) ∨
    (∃ f, s.nextWrite = .failed f ∧ execSnsFetch s = .next ((s.drewWrite.setBufValid false).raise
      (.transport (.reported f) Config.devAddr (.write Config.cmdRead)))) ∨
    (∃ bs, s.nextWrite = .done ∧ s.drewWrite.nextRead = .bytes bs ∧ bs.length ≠ 9 ∧
      execSnsFetch s = .next (((afterCommand s).drewRead.setBufValid false).raise
        (.transport .shortRead Config.devAddr (.read 9)))) ∨
    (∃ f, s.nextWrite = .done ∧ s.drewWrite.nextRead = .failed f ∧
      execSnsFetch s = .next (((afterCommand s).drewRead.setBufValid false).raise
        (.transport (.reported f) Config.devAddr (.read 9)))) ∨
    (s.nextWrite = .never ∧ execSnsFetch s = .next s.drewWrite.setStuck) ∨
    (s.nextWrite = .done ∧ s.drewWrite.nextRead = .never ∧
      execSnsFetch s = .next (afterCommand s).drewRead.setStuck) := by
  unfold execSnsFetch
  rcases fetchBody_cases s with ⟨bs, hw, hr, hl, he⟩ | ⟨f, hw, he⟩ | ⟨bs, hw, hr, hl, he⟩ | ⟨f, hw, hr, he⟩ |
    ⟨hw, he⟩ | ⟨hw, hr, he⟩
  · exact .inl ⟨bs, hw, hr, hl, by rw [he, endState_completed]⟩
  · exact .inr (.inl ⟨f, hw, by rw [he, endState_failed]⟩)
  · exact .inr (.inr (.inl ⟨bs, hw, hr, hl, by rw [he, endState_failed]⟩))
  · exact .inr (.inr (.inr (.inl ⟨f, hw, hr, by rw [he, endState_failed]⟩)))
  · exact .inr (.inr (.inr (.inr (.inl ⟨hw, by rw [he, endState_pending]⟩))))
  · exact .inr (.inr (.inr (.inr (.inr ⟨hw, hr, by rw [he, endState_pending]⟩))))

/-- The state after the command write of SNS.START completed. -/
def afterStart (s : State) : State := s.drewWrite.record (.write Config.devAddr Config.cmdStart)

/-- SNS.START (R85). -/
theorem execSnsStart_cases (s : State) :
    (s.nextWrite = .done ∧ s.drewWrite.nextDelay = .elapsed ∧
      execSnsStart s = .next (((afterStart s).drewDelay.record (.delay Config.settleMs)).complete .empty)) ∨
    (∃ f, s.nextWrite = .failed f ∧ execSnsStart s =
      .next (s.drewWrite.raise (.transport (.reported f) Config.devAddr (.write Config.cmdStart)))) ∨
    (s.nextWrite = .never ∧ execSnsStart s = .next s.drewWrite.setStuck) ∨
    (s.nextWrite = .done ∧ s.drewWrite.nextDelay = .never ∧
      execSnsStart s = .next (afterStart s).drewDelay.setStuck) := by
  unfold execSnsStart
  rcases busWrite_cases Config.devAddr Config.cmdStart s with ⟨hw, he⟩ | ⟨f, hw, he⟩ | ⟨hw, he⟩
  · rcases busDelay_cases Config.settleMs (afterStart s) with ⟨hd, hb⟩ | ⟨hd, hb⟩
    · exact .inl ⟨hw, hd, by rw [he, andThen_completed, ← afterStart, hb]; rfl⟩
    · exact .inr (.inr (.inr ⟨hw, hd, by rw [he, andThen_completed, ← afterStart, hb]; rfl⟩))
  · exact .inr (.inl ⟨f, hw, by rw [he]; rfl⟩)
  · exact .inr (.inr (.inl ⟨hw, by rw [he]; rfl⟩))

/-- A bus command word sent by itself (R46, R81). -/
theorem busCommand_cases (w : Word) (s : State) :
    let t := (busWrite Config.devAddr w s).endState fun _ s1 => s1
    (s.nextWrite = .done ∧ t = s.drewWrite.record (.write Config.devAddr w)) ∨
    (∃ f, s.nextWrite = .failed f ∧ t = s.drewWrite.raise (.transport (.reported f) Config.devAddr (.write w))) ∨
    (s.nextWrite = .never ∧ t = s.drewWrite.setStuck) := by
  intro t
  rcases busWrite_cases Config.devAddr w s with ⟨hw, he⟩ | ⟨f, hw, he⟩ | ⟨hw, he⟩
  · exact .inl ⟨hw, by simp only [t, he, endState_completed]⟩
  · exact .inr (.inl ⟨f, hw, by simp only [t, he, endState_failed]⟩)
  · exact .inr (.inr ⟨hw, by simp only [t, he, endState_pending]⟩)

/-- CHK.WORD k (R76). -/
theorem execChkWord_cases (k : BitVec 2) (s : State) :
    (∃ raw v, wordIndexOk k = true ∧ s.bufValid = true ∧ s.parseWord k = some (raw, v) ∧
      execChkWord k s = .next (s.complete (.word raw v))) ∨
    (wordIndexOk k = true ∧ (s.bufValid = false ∨ s.parseWord k = none) ∧
      execChkWord k s = .next (s.raise (.noResponse k))) ∨
    (wordIndexOk k = false ∧ execChkWord k s = .next (s.raise (.refused (encode (.chkWord k))))) := by
  unfold execChkWord
  cases hk : wordIndexOk k with
  | false => exact .inr (.inr ⟨rfl, by simp⟩)
  | true =>
    cases hv : s.bufValid with
    | false => exact .inr (.inl ⟨rfl, .inl rfl, by simp⟩)
    | true =>
      cases hp : s.parseWord k with
      | none => exact .inr (.inl ⟨rfl, .inr rfl, by simp⟩)
      | some p => exact .inl ⟨p.1, p.2, rfl, rfl, rfl, by simp⟩

end Sys2Proof.Machine
end

