-- ==== Sys2Proof/Laws/PerInstr.lean ====
section
/-! SUPPORT. The families of statements about every instruction as syntax, one lemma per constructor. -/

namespace Sys2Proof.Laws.SelectorField

/-- A host operation's word carries a selector from 1 to 9 and zero in the reserved field (30_encoding.md R49, R50);
a bus command word is one of the two of R46. -/
def Statement (i : Instr) : Prop :=
  match formatOf i with
  | .hostop => 1 ≤ (opField (encode i)).toNat ∧ (opField (encode i)).toNat ≤ 9 ∧ resField (encode i) = 0
  | .buscmd => encode i = Config.cmdStart ∨ encode i = Config.cmdRead

theorem crcInit : Statement .crcInit := ⟨by decide, by decide, by decide⟩

theorem crcUpdate (data : Byte) : Statement (.crcUpdate data) := by
  have hall : ∀ d : Byte, opField (encode (.crcUpdate d)) = 2 ∧ resField (encode (.crcUpdate d)) = 0 := by decide
  obtain ⟨ho, hr⟩ := hall data
  exact ⟨by rw [ho]; decide, by rw [ho]; decide, hr⟩

theorem crcRead : Statement .crcRead := ⟨by decide, by decide, by decide⟩

theorem chkWord (k : BitVec 2) : Statement (.chkWord k) := by
  have hall : ∀ k : BitVec 2, opField (encode (.chkWord k)) = 4 ∧ resField (encode (.chkWord k)) = 0 := by decide
  obtain ⟨ho, hr⟩ := hall k
  exact ⟨by rw [ho]; decide, by rw [ho]; decide, hr⟩

theorem snsStart : Statement .snsStart := ⟨by decide, by decide, by decide⟩

theorem snsFetch : Statement .snsFetch := ⟨by decide, by decide, by decide⟩

theorem snsReadCo2 : Statement .snsReadCo2 := ⟨by decide, by decide, by decide⟩

theorem snsReadTemp : Statement .snsReadTemp := ⟨by decide, by decide, by decide⟩

theorem snsReadHum : Statement .snsReadHum := ⟨by decide, by decide, by decide⟩

theorem busStart : Statement .busStart := .inl rfl

theorem busRead : Statement .busRead := .inr rfl

end Sys2Proof.Laws.SelectorField
end

