-- ==== Sys2Proof/Laws/Run.lean ====
section
/-! SUPPORT. How instructions issued one after another end, and what appending events does to whole transactions and
to the last read of a trace. -/

namespace Sys2Proof.Safety

open Sys2Proof.Machine

/-- No instruction left: the state stands. -/
@[simp] theorem execSeq_nil (s : State) : execSeq [] s = .next s := rfl

/-- A sequence that leaves the block running ran its first instruction through, and then the others. -/
theorem execSeq_cons_running {i : Instr} {is : List Instr} {s u : State} (h : execSeq (i :: is) s = .next u)
    (hu : running u = true) : ∃ t, exec i s = .next t ∧ running t = true ∧ execSeq is t = .next u := by
  obtain ⟨t, ht⟩ := exec_next i s
  simp only [execSeq, ht] at h
  split at h
  · exact ⟨t, ht, ‹_›, h⟩
  · injection h with h
    exact absurd (h ▸ hu) ‹_›

/-- Whole transactions after whole transactions are whole transactions. -/
theorem wholeTransactions_append {l m : List Event} (hl : wholeTransactions l = true)
    (hm : wholeTransactions m = true) : wholeTransactions (l ++ m) = true := by
  induction l using wholeTransactions.induct with
  | case1 => exact hm
  | case2 => simp [wholeTransactions] at hl
  | case3 e d t ih =>
    simp only [wholeTransactions, Bool.and_eq_true, List.cons_append] at *
    exact ⟨hl.1, ih hl.2⟩

/-- Only what comes last can be broken off. -/
theorem brokenOff_append {l m : List Event} (hl : wholeTransactions l = true) (hm : brokenOff m = true) :
    brokenOff (l ++ m) = true := by
  induction l using wholeTransactions.induct with
  | case1 => exact hm
  | case2 => simp [wholeTransactions] at hl
  | case3 e d t ih =>
    simp only [wholeTransactions, brokenOff, Bool.and_eq_true, List.cons_append] at *
    exact ⟨hl.1, ih hl.2⟩

/-- Events that read nothing leave the last read as it was. -/
theorem lastRead_append_of_none {l m : List Event} (hm : lastRead m = none) : lastRead (l ++ m) = lastRead l := by
  have h : m.filterMap readBytes = [] := by simpa [lastRead] using hm
  simp [lastRead, h]

/-- A read at the end is the last read. -/
@[simp] theorem lastRead_append_read (l : List Event) (a : Addr7) (n : Nat) (bs : List Byte) :
    lastRead (l ++ [.read a n bs]) = some bs := by
  simp [lastRead, readBytes]

end Sys2Proof.Safety
end

