-- ==== Sys2Proof/Tests/Slice0.lean ====
section
/-! SUPPORT. Tests of one step each, with results from spec/95_test_vectors.md or by hand from the rules, and for every
statement with hypotheses a state and operands that meet them. -/

namespace Sys2Proof.Tests

open Sys2Proof.Machine Sys2Proof.Safety

/-! ### Helpers -/

/-- Response A of 95_test_vectors.md. -/
def respA : List Byte := [0x01, 0x90, 0x4C, 0x66, 0x66, 0x93, 0x80, 0x00, 0xA2]

/-- Response B: A with a bad temperature checksum. -/
def respB : List Byte := [0x01, 0x90, 0x4C, 0x66, 0x66, 0x92, 0x80, 0x00, 0xA2]

/-- Response E. -/
def respE : List Byte := [0x00, 0x00, 0x81, 0xFF, 0xFF, 0xAC, 0x5E, 0xB9, 0x3C]

/-- Response Z: nine zero bytes. -/
def respZ : List Byte := List.replicate 9 0x00

/-- After reset, with what the next primitives meet. -/
def wired (ws : List WriteReply) (rs : List ReadReply) (ds : List DelayReply) : State :=
  { State.reset with writeReplies := ws, readReplies := rs, delayReplies := ds }

/-- After reset, with one answered write and one read returning these bytes. -/
def responding (bs : List Byte) : State := wired [.done] [.bytes bs] []

/-- After reset, with a buffered response. -/
def buffered (bs : List Byte) : State := { State.reset with buf := Memory.fill [] 0 bs, bufValid := true }

/-- After reset, with an accumulator. -/
def withAcc (a : Byte) : State := { State.reset with acc := some a }

/-- The next state, where there is one. -/
def nextOf (o : Host.Outcome State Machine.Fault Machine.Refusal) : Option State :=
  match o with
  | .next t => some t
  | .fault _ => none
  | .refused _ => none

/-- The last output of the next state. -/
def outOf (o : Host.Outcome State Machine.Fault Machine.Refusal) : Option Output :=
  (nextOf o).bind fun t => t.outputs.getLast?

/-! ### WellFormed -/

theorem test_wf_refuses_index_three : Instr.wf (.chkWord 3) = false := by decide

theorem test_wf_admits_index_two : Instr.wf (.chkWord 2) = true := by decide

/-! ### Decoding words written out from R50 and R46 -/

theorem test_decode_crcInit : decode .hostop 0b0001000000000000 = .ok .crcInit := rfl
theorem test_decode_crcUpdate : decode .hostop 0b0010000010111110 = .ok (.crcUpdate 0xBE) := rfl
theorem test_decode_crcRead : decode .hostop 0b0011000000000000 = .ok .crcRead := rfl
theorem test_decode_chkWord : decode .hostop 0b0100001000000000 = .ok (.chkWord 2) := rfl
theorem test_decode_snsStart : decode .hostop 0b0101000000000000 = .ok .snsStart := rfl
theorem test_decode_snsFetch : decode .hostop 0b0110000000000000 = .ok .snsFetch := rfl
theorem test_decode_snsReadCo2 : decode .hostop 0b0111000000000000 = .ok .snsReadCo2 := rfl
theorem test_decode_snsReadTemp : decode .hostop 0b1000000000000000 = .ok .snsReadTemp := rfl
theorem test_decode_snsReadHum : decode .hostop 0b1001000000000000 = .ok .snsReadHum := rfl
theorem test_decode_busStart : decode .buscmd 0b0010000110110001 = .ok .busStart := rfl
theorem test_decode_busRead : decode .buscmd 0b1110110000000101 = .ok .busRead := rfl

/-- L2.7: one refused word for each reason. -/
theorem test_decode_refusals :
    decode .hostop 0x0FFF = .error .reservedSelector ∧ decode .hostop 0xA000 = .error .reservedSelector ∧
    decode .hostop 0x2800 = .error .reservedField ∧ decode .hostop 0x5100 = .error .strayIndex ∧
    decode .hostop 0x8001 = .error .strayData ∧ decode .hostop 0x4300 = .error .noSuchWord ∧
    decode .buscmd 0x21B0 = .error .notABusCommand := ⟨rfl, rfl, rfl, rfl, rfl, rfl, rfl⟩

/-- As host words both bus command words are refused (R52, R54). -/
theorem test_decode_bus_words_are_no_host_words :
    decode .hostop 0x21B1 = .error .strayIndex ∧ decode .hostop 0xEC05 = .error .reservedSelector := ⟨rfl, rfl⟩

theorem test_decodeTableWord :
    decodeTableWord 16 0x4100 = some (.chkWord 1) ∧ decodeTableWord 16 0xEC05 = some .busRead ∧
    decodeTableWord 16 0x4300 = none := ⟨rfl, rfl, rfl⟩

/-! ### Memory -/

theorem test_memory_big_endian : (buffered respA).memRead2 0 = some 0x0190 := by decide

theorem test_memory_unwritten_has_no_value : Memory.read State.reset.buf 0 = none := rfl

/-! ### The engine (L1.2, L2.2, L2.3) -/

theorem test_crcBit : crcBit 0x80 = 0x31 ∧ crcBit 0x7F = 0xFE ∧ crcBit 0xC0 = 0xB1 := by decide

theorem test_crcByte : crcByte 0xFF 0xBE = 0x0C ∧ crcByte 0x0C 0xEF = 0x92 ∧ crcByte 0x12 0x34 = 0x20 := by decide

theorem test_crc8 : crc8 [] = 0xFF ∧ crc8 [0x01, 0x00] = 0x75 ∧ crc8 [0x12, 0x34, 0x56, 0x78] = 0xE0 := by decide +kernel

theorem test_crcInit_from_reset : (nextOf (exec .crcInit State.reset)).map (·.acc) = some (some 0xFF) := by decide

theorem test_crcUpdate : (nextOf (exec (.crcUpdate 0xBE) (withAcc 0xFF))).map (·.acc) = some (some 0x0C) := by decide

theorem test_crcUpdate_uninitialised :
    (nextOf (exec (.crcUpdate 0x12) State.reset)).map (fun t => (t.fault, t.pc)) =
      some (some (.accUninitialised .update), 0) := by decide

theorem test_crcRead : outOf (exec .crcRead (withAcc 0x92)) = some (.byte 0x92) := by decide

theorem test_crcRead_uninitialised :
    (nextOf (exec .crcRead State.reset)).map (·.fault) = some (some (.accUninitialised .read)) := by decide

/-! ### The parser (L2.4) -/

theorem test_chkWord_valid : outOf (exec (.chkWord 2) (buffered respA)) = some (.word 0x8000 true) := by decide +kernel

theorem test_chkWord_mismatch : outOf (exec (.chkWord 1) (buffered respB)) = some (.word 0x6666 false) := by decide +kernel

theorem test_chkWord_noResponse :
    (nextOf (exec (.chkWord 1) State.reset)).map (·.fault) = some (some (.noResponse 1)) := by decide

/-- L2.4's error patterns: one detected, one not. -/
theorem test_error_patterns :
    checkTriple (0x01904C ^^^ 0x030000) = false ∧ checkTriple (0x01904C ^^^ 0x000131) = true := by decide +kernel

/-! ### The sequencer (L2.6) -/

theorem test_snsStart : (nextOf (exec .snsStart (wired [.done] [] [.elapsed]))).map (·.trace) =
    some [.write 0x62 0x21B1, .delay 500] := by decide

/-- S2: a failed write adds no event. -/
theorem test_snsStart_write_fails :
    (nextOf (exec .snsStart (wired [.failed 7] [] [.elapsed]))).map (fun t => (t.trace, t.fault)) =
      some ([], some (.transport (.reported 7) 0x62 (.write 0x21B1))) := by decide

theorem test_snsFetch : (nextOf (exec .snsFetch (responding respE))).map (fun t => (Memory.read t.buf 8, t.bufValid, t.trace)) =
    some (some 0x3C, true, [.write 0x62 0xEC05, .read 0x62 9 respE]) := by decide

/-- S7: eight bytes are a short read. -/
theorem test_snsFetch_short_read :
    (nextOf (exec .snsFetch (responding (respA.take 8)))).map (fun t => (t.trace, t.fault, t.buf)) =
      some ([.write 0x62 0xEC05], some (.transport .shortRead 0x62 (.read 9)), []) := by decide

theorem test_snsReadCo2 : outOf (exec .snsReadCo2 (responding respA)) = some (.co2 400) := by decide +kernel

theorem test_snsReadCo2_invalid : outOf (exec .snsReadCo2 (responding respZ)) = some (.co2 (-1)) := by decide +kernel

theorem test_snsReadTemp :
    outOf (exec .snsReadTemp (responding respA)) = some (.real (.value (mkRat 819165 32768))) := by decide +kernel

theorem test_snsReadTemp_invalid :
    outOf (exec .snsReadTemp (responding respB)) = some (.real .notANumber) := by decide +kernel

theorem test_snsReadHum :
    outOf (exec .snsReadHum (responding respE)) = some (.real (.value (mkRat 606225 16384))) := by decide +kernel

theorem test_snsReadHum_ignores_other_words :
    outOf (exec .snsReadHum (responding respB)) = some (.real (.value 50)) := by decide +kernel

theorem test_busStart : (nextOf (exec .busStart (wired [.done] [] []))).map (fun t => (t.trace, t.pc)) =
    some ([.write 0x62 0x21B1], 0) := by decide

theorem test_busRead : (nextOf (exec .busRead (wired [.done] [] []))).map (·.trace) =
    some [.write 0x62 0xEC05] := by decide

/-! ### Conversions and register forms (L2.5) -/

theorem test_binary64_temp : binary64 (tempValue 0x41D4) = 0xBF34000000000000 := by decide

theorem test_binary64_hum : binary64 (humValue 0xFFFF) = 0x4058FFE700000000 := by decide

theorem test_co2Register_sentinel : co2Register (-1) = 0xFFFFFFFF := by decide

/-! ### The step -/

theorem test_step_runs_word : (nextOf (step ((withAcc 0x92).withFetchWord 16 0x2092))).map (fun t => (t.acc, t.pc)) =
    some (some 0x00, 1) := by decide

/-- P7c: a refused word is recorded, and pc stays. -/
theorem test_step_refuses_word : (nextOf (step (State.reset.withFetchWord 16 0x4300))).map (fun t => (t.fault, t.pc)) =
    some (some (.refused 0x4300), 0) := by decide

theorem test_step_stopped : step { State.reset with fault := some (.refused 0) } = .fault .stopped := rfl

theorem test_step_stuck : step { State.reset with stuck := true } = .fault .neverCompletes := rfl

theorem test_step_program_over : step State.reset = .refused .endOfProgram := rfl

theorem test_core_reset : Sys2Proof.core.reset = State.reset := rfl

/-! ### Assembler lines (R56, R57) -/

theorem test_assemble_update :
    assembleLine ['C', 'R', 'C', '.', 'U', 'P', 'D', 'A', 'T', 'E', ' ', '0', 'x', 'B', 'E', ' ', ';', 'x'] = .ok [0x20BE] :=
  rfl

theorem test_assemble_alias :
    assembleLine ['C', 'H', 'K', '.', 'W', 'O', 'R', 'D', ' ', 'H', 'U', 'M'] = .ok [0x4200] := rfl

theorem test_assemble_compute :
    assembleLine ['C', 'R', 'C', '.', 'C', 'O', 'M', 'P', 'U', 'T', 'E', ' ', '1', '9', '0', ',', ' ', '0', 'x', 'E', 'F'] =
      .ok [0x1000, 0x20BE, 0x20EF, 0x3000] := rfl

theorem test_assemble_out_of_range :
    assembleLine ['C', 'R', 'C', '.', 'U', 'P', 'D', 'A', 'T', 'E', ' ', '2', '5', '6'] = .error .badOperand := rfl

/-! ### Witnesses: states and operands that meet the hypotheses of the statements -/

theorem witness_DecodeEncodeAgree : Instr.wf (.crcUpdate 0xFF) = true ∧ Instr.wf (.chkWord 2) = true ∧
    Instr.wf .busRead = true := by decide

theorem witness_DecodedWordEncodesBack : decode .hostop 0x20FF = .ok (.crcUpdate 0xFF) ∧
    decode .buscmd 0xEC05 = .ok .busRead := ⟨rfl, rfl⟩

/-- One word for each class of R53, at the boundaries of the selector range. -/
theorem witness_ReservedWordsAreRefused :
    (0x0000 : Word).extractLsb' 12 4 = 0x0#4 ∧ 0xA#4 ≤ (0xA000 : Word).extractLsb' 12 4 ∧
    (0x1400 : Word).extractLsb' 10 2 ≠ 0#2 ∧
    ((0x1100 : Word).extractLsb' 8 2 ≠ 0#2 ∧ (0x1100 : Word).extractLsb' 12 4 ≠ 0x4#4) ∧
    ((0x1001 : Word).extractLsb' 0 8 ≠ 0#8 ∧ (0x1001 : Word).extractLsb' 12 4 ≠ 0x2#4) ∧
    ((0x4300 : Word).extractLsb' 12 4 = 0x4#4 ∧ (0x4300 : Word).extractLsb' 8 2 = 3#2) := by decide

theorem witness_FormatsAreDisjoint : (accepted (decode .buscmd 0x21B1)).isSome = true := rfl

theorem witness_StepRunsDecoded : running { State.reset with program := [0x1000] } = true ∧
    ({ State.reset with program := [0x1000] } : State).program[0]? = some 0x1000 ∧
    decode .hostop 0x1000 = .ok .crcInit := ⟨rfl, rfl, rfl⟩

theorem witness_RefusedWordIsOnlyRecorded : running { State.reset with program := [0x4300] } = true ∧
    ({ State.reset with program := [0x4300] } : State).program[0]? = some 0x4300 ∧
    decode .hostop 0x4300 = .error .noSuchWord := ⟨rfl, rfl, rfl⟩

theorem witness_FaultIsFinalUntilReset :
    ({ State.reset with fault := some (.noResponse 0) } : State).fault = some (.noResponse 0) ∧
    ∃ t, step { State.reset with program := [0x1000] } = .next t := ⟨rfl, _, rfl⟩

theorem witness_HostWordsMatchTheTable :
    (0x0FFF : Word).extractLsb' 12 4 = 0x0#4 ∧ 0xA#4 ≤ (0xFFFF : Word).extractLsb' 12 4 := by decide

theorem witness_StopsThatAreNoFaults :
    (({ State.reset with stuck := true } : State).fault = none ∧
      ({ State.reset with stuck := true } : State).stuck = true) ∧
    (running State.reset = true ∧ State.reset.program.length ≤ State.reset.pc) := by decide

/-- A step that goes on and a step that stops. -/
theorem witness_StepAdvancesByOneOrStops :
    (∃ t, step { State.reset with program := [0x1000] } = .next t ∧ running t = true) ∧
    ∃ t, step { State.reset with program := [0x3000] } = .next t ∧ running t = false :=
  ⟨⟨_, rfl, rfl⟩, ⟨_, rfl, rfl⟩⟩

theorem witness_ResetState : ({ State.reset with fault := some (.noResponse 0) } : State).fault ≠ none := by decide

/-- The invariant holds of a state with a program, a full buffer, a trace and an output, from which a step goes on. -/
def midRun : State :=
  { buffered respA with
    program := [0x6000, 0x4000], pc := 1, outputs := [.empty],
    trace := [.write 0x62 0xEC05, .read 0x62 9 respA] }

theorem witness_StepKeepsInvariant : RunInv midRun ∧ ∃ t, step midRun = .next t :=
  ⟨⟨by decide, fun _ => by decide, fun _ => ⟨respA, rfl, by decide⟩, fun _ => by decide, by decide, rfl, by decide,
    nofun, nofun,
    fun o ho => by
      have h : o = .empty := by simpa [midRun] using ho
      rw [h]; trivial⟩, _, rfl⟩

theorem witness_CrcIsAffine : ([0x01, 0x90] : List Byte).length = ([0xBE, 0xEF] : List Byte).length := rfl

theorem witness_CrcUpdateFoldsItsByte : (withAcc 0xFF).acc = some 0xFF ∧ State.reset.acc = none := ⟨rfl, rfl⟩

theorem witness_CrcReadReturnsAcc : (withAcc 0x92).acc = some 0x92 ∧ State.reset.acc = none := ⟨rfl, rfl⟩

theorem witness_ZeroByteChangesEveryNonzeroAcc : (0xEF : Byte) ≠ 0x00 := by decide

theorem witness_ComputeReturnsCrc8 : running State.reset = true := rfl

theorem witness_ComputeIsDeterministic : running (withAcc 0x5A) = true ∧ running State.reset = true := ⟨rfl, rfl⟩

/-- A public operation that faults meets the last clause. -/
theorem witness_PreconditionFaults : State.reset.acc = none ∧ ((2 : BitVec 2) ≠ 3 ∧ State.reset.bufValid = false) ∧
    running State.reset = true ∧
    ∃ t, (wired [.failed 7] [] []).fault = none ∧ exec .snsReadTemp (wired [.failed 7] [] []) = .next t ∧
      t.fault ≠ none := ⟨rfl, by decide, rfl, _, rfl, rfl, nofun⟩

/-- CHK.WORD at its lowest and highest index, and without a response. -/
theorem witness_ChkWordReturnsWordAndValidity :
    ((0 : BitVec 2) ≠ 3 ∧ (buffered respA).bufValid = true ∧ Memory.read (buffered respA).buf 0 = some 0x01 ∧
      Memory.read (buffered respA).buf 1 = some 0x90 ∧ Memory.read (buffered respA).buf 2 = some 0x4C) ∧
    ((2 : BitVec 2) ≠ 3 ∧ Memory.read (buffered respA).buf 6 = some 0x80 ∧
      Memory.read (buffered respA).buf 7 = some 0x00 ∧ Memory.read (buffered respA).buf 8 = some 0xA2) ∧
    State.reset.bufValid = false := by decide

/-- A valid flag over a buffer whose last byte, or whose first, is missing. -/
theorem witness_ChkWordWhereNoRunComes :
    ((2 : BitVec 2) ≠ 3 ∧ (buffered (respA.take 8)).bufValid = true ∧
      ∃ j < 3, Memory.read (buffered (respA.take 8)).buf (6 + j) = none) ∧
    ((0 : BitVec 2) ≠ 3 ∧ ({ State.reset with bufValid := true } : State).bufValid = true ∧
      ∃ j < 3, Memory.read ({ State.reset with bufValid := true } : State).buf (0 + j) = none) := by decide

/-- Two responses that agree on word 0 and differ elsewhere. -/
theorem witness_OnlyTheWordsOwnBytesCount :
    ((buffered respA).bufValid = true ∧ (buffered respB).bufValid = true ∧ Memory.full (buffered respA).buf = true ∧
      Memory.full (buffered respB).buf = true ∧
      ∀ j < 3, Memory.read (buffered respA).buf (0 + j) = Memory.read (buffered respB).buf (0 + j)) ∧
    ((responding respA).nextWrite = .done ∧ (responding respB).nextWrite = .done ∧
      (responding respA).drewWrite.nextRead = .bytes respA ∧ (responding respB).drewWrite.nextRead = .bytes respB ∧
      respA.length = 9 ∧ respB.length = 9 ∧ (∀ j < 3, respA[0 + j]? = respB[0 + j]?) ∧
      ∀ j < 3, respA[6 + j]? = respB[6 + j]?) ∧
    (∀ j < 3, respA[3 + j]? = (respA.set 0 0xFF)[3 + j]?) := by decide

/-- A valid triple, and errors of weight 1, of odd weight 5, and within a burst. -/
theorem witness_ErrorDetection : checkTriple 0x01904C = true ∧ checkTriple 0xBEEF92 = true ∧
    (0x800000 : BitVec 24) ≠ 0 ∧ weight 0x800000 ≤ 3 ∧ weight 0x00F001 % 2 = 1 := by decide +kernel

theorem witness_ErrorDetection_burst : withinBurst 0xFF0000 := by
  refine ⟨16, fun i h => ?_⟩
  by_contra hn
  have hall : ∀ j < 24, (0xFF0000 : BitVec 24).getLsbD j = true → 16 ≤ j ∧ j < 24 := by decide
  by_cases hi : i < 24
  · have := hall i hi h; omega
  · rw [BitVec.getLsbD_of_ge _ _ (by omega)] at h; exact absurd h (by simp)

theorem witness_SnsStartCommandsAndWaits :
    ((wired [.done] [] [.elapsed]).nextWrite = .done ∧ (wired [.done] [] [.elapsed]).drewWrite.nextDelay = .elapsed) ∧
    (wired [.failed 7] [] []).nextWrite = .failed 7 := by decide

theorem witness_SettlingDelayCannotBeSkipped : running (wired [.done] [] [.elapsed]) = true ∧
    ∃ t, exec .snsStart (wired [.done] [] [.elapsed]) = .next t ∧ running t = true ∧
      t.outputs ≠ (wired [.done] [] [.elapsed]).outputs := ⟨rfl, _, rfl, rfl, by decide⟩

theorem witness_SnsFetchFillsTheBuffer : (responding respA).nextWrite = .done ∧
    (responding respA).drewWrite.nextRead = .bytes respA ∧ respA.length = 9 := by decide

/-- A valid response, and one all of whose words are invalid; the failures are witness_FetchFaultsArePrecise's. -/
theorem witness_SnsReadCo2Reading :
    ((responding respA).nextWrite = .done ∧ (responding respA).drewWrite.nextRead =
      .bytes [0x01, 0x90, 0x4C, 0x66, 0x66, 0x93, 0x80, 0x00, 0xA2]) ∧
    ((responding respZ).nextWrite = .done ∧ (responding respZ).drewWrite.nextRead =
      .bytes [0x00, 0x00, 0x00, 0x00, 0x00, 0x00, 0x00, 0x00, 0x00]) := by decide

/-- Response B, whose temperature checksum is wrong, and response E. -/
theorem witness_SnsReadTempReading :
    ((responding respB).nextWrite = .done ∧ (responding respB).drewWrite.nextRead =
      .bytes [0x01, 0x90, 0x4C, 0x66, 0x66, 0x92, 0x80, 0x00, 0xA2]) ∧
    ((responding respE).nextWrite = .done ∧ (responding respE).drewWrite.nextRead =
      .bytes [0x00, 0x00, 0x81, 0xFF, 0xFF, 0xAC, 0x5E, 0xB9, 0x3C]) := by decide

theorem witness_SnsReadHumReading :
    ((responding respB).nextWrite = .done ∧ (responding respB).drewWrite.nextRead =
      .bytes [0x01, 0x90, 0x4C, 0x66, 0x66, 0x92, 0x80, 0x00, 0xA2]) ∧
    ((responding respZ).nextWrite = .done ∧ (responding respZ).drewWrite.nextRead =
      .bytes [0x00, 0x00, 0x00, 0x00, 0x00, 0x00, 0x00, 0x00, 0x00]) := by decide

theorem witness_FetchFaultsArePrecise :
    (wired [.failed 7] [] []).nextWrite = .failed 7 ∧
    ((wired [.done] [.failed 7] []).nextWrite = .done ∧
      (wired [.done] [.failed 7] []).drewWrite.nextRead = .failed 7) ∧
    ((responding (respA.take 8)).nextWrite = .done ∧
      (responding (respA.take 8)).drewWrite.nextRead = .bytes (respA.take 8) ∧ (respA.take 8).length ≠ 9) := by decide

theorem witness_HangingPrimitiveSticks :
    (wired [.never] [] []).nextWrite = .never ∧
    ((wired [.done] [.never] []).nextWrite = .done ∧ (wired [.done] [.never] []).drewWrite.nextRead = .never) ∧
    ((wired [.done] [] [.never]).nextWrite = .done ∧
      (wired [.done] [] [.never]).drewWrite.nextDelay = .never) := by decide

theorem witness_ThreeReadsThreeTransactions :
    let s := wired [.done, .done, .done] [.bytes respA, .bytes respB, .bytes respE] []
    running s = true ∧ ∃ t, execSeq [.snsReadCo2, .snsReadTemp, .snsReadHum] s = .next t ∧ running t = true :=
  ⟨rfl, _, rfl, rfl⟩

theorem witness_ChecksumMismatchIsAnOutput :
    (running (buffered respZ) = true ∧ (buffered respZ).bufValid = true ∧
      Memory.read (buffered respZ).buf 0 = some 0x00 ∧ Memory.read (buffered respZ).buf 1 = some 0x00 ∧
      Memory.read (buffered respZ).buf 2 = some 0x00 ∧ crc8 [0x00, 0x00] ≠ 0x00) ∧
    (running (responding respZ) = true ∧ (responding respZ).nextWrite = .done ∧
      (responding respZ).drewWrite.nextRead = .bytes respZ ∧ respZ.length = 9 ∧
      crc8 [respZ.getD 0 0, respZ.getD 1 0] ≠ respZ.getD 2 0 ∧
      crc8 [respZ.getD 3 0, respZ.getD 4 0] ≠ respZ.getD 5 0 ∧
      crc8 [respZ.getD 6 0, respZ.getD 7 0] ≠ respZ.getD 8 0) := by decide +kernel

/-- Operations that fetch nothing run after a fetch, and after each of the reads; a second read runs after a read. -/
theorem witness_BufferLifetime :
    (running (wired [.done, .done] [.bytes respA] [.elapsed]) = true ∧
      ∃ u w, exec .snsFetch (wired [.done, .done] [.bytes respA] [.elapsed]) = .next u ∧ running u = true ∧
        execSeq [.crcInit, .snsStart] u = .next w ∧ running w = true) ∧
    (∃ u w, exec .snsReadCo2 (wired [.done, .done] [.bytes respA, .bytes respB] []) = .next u ∧ running u = true ∧
      execSeq [.snsReadHum] u = .next w ∧ running w = true) ∧
    (∃ u w, exec .snsReadTemp (responding respA) = .next u ∧ running u = true ∧
      execSeq [.crcInit] u = .next w ∧ running w = true) ∧
    ∃ u w, exec .snsReadHum (responding respA) = .next u ∧ running u = true ∧
      execSeq [] u = .next w ∧ running w = true :=
  ⟨⟨rfl, _, _, rfl, rfl, rfl, rfl⟩, ⟨_, _, rfl, rfl, rfl, rfl⟩, ⟨_, _, rfl, rfl, rfl, rfl⟩, ⟨_, _, rfl, rfl, rfl, rfl⟩⟩

/-- A fetch that completes, a fetch that faults, and an operation that does not touch the buffer. -/
theorem witness_WhoWritesTheBuffer :
    (running (responding respA) = true ∧ ∃ t, exec .snsFetch (responding respA) = .next t ∧ running t = true) ∧
    (∃ t, exec .snsReadHum (wired [.failed 7] [] []) = .next t ∧ t.fault ≠ none) ∧
    Instr.crcInit ∉ [Instr.snsFetch, .snsReadCo2, .snsReadTemp, .snsReadHum] :=
  ⟨⟨rfl, _, rfl, rfl⟩, ⟨_, rfl, nofun⟩, by decide⟩

theorem witness_TraceOnlyGrows : (∃ t, exec .snsStart (wired [.done] [] [.elapsed]) = .next t) ∧
    (∃ t, exec .crcInit State.reset = .next t) ∧
    Instr.crcInit ∉ [Instr.snsStart, .snsFetch, .snsReadCo2, .snsReadTemp, .snsReadHum, .busStart, .busRead] :=
  ⟨⟨_, rfl⟩, ⟨_, rfl⟩, by decide⟩

/-- A next state for each of the codes 0 to 3, code 1 by a failed write, a failed read and a short read, and a hang. -/
theorem witness_WhoRaisesWhichFault :
    (∃ t, exec .crcInit State.reset = .next t ∧ outcomeCode t.fault = 0) ∧
    (∃ t, exec .snsFetch (wired [.never] [] []) = .next t ∧ t.stuck = true ∧ outcomeCode t.fault = 0) ∧
    (∃ t, exec .snsStart (wired [.failed 7] [] []) = .next t ∧ outcomeCode t.fault = 1) ∧
    (∃ t, exec .snsFetch (wired [.done] [.failed 7] []) = .next t ∧ outcomeCode t.fault = 1) ∧
    (∃ t, exec .snsReadHum (responding (respA.take 8)) = .next t ∧ outcomeCode t.fault = 1) ∧
    (∃ t, exec .crcRead State.reset = .next t ∧ outcomeCode t.fault = 2) ∧
    (∃ t, exec (.chkWord 0) State.reset = .next t ∧ outcomeCode t.fault = 3) ∧
    running State.reset = true ∧ (State.reset.bufValid = true → Memory.full State.reset.buf = true) ∧
    running (wired [.failed 7] [] []) = true ∧ formatOf .snsFetch = .hostop :=
  ⟨⟨_, rfl, rfl⟩, ⟨_, rfl, rfl, rfl⟩, ⟨_, rfl, rfl⟩, ⟨_, rfl, rfl⟩, ⟨_, rfl, rfl⟩, ⟨_, rfl, rfl⟩, ⟨_, rfl, rfl⟩, rfl,
    nofun, rfl, rfl⟩

/-- Two states that differ in everything but the transport's answers. -/
theorem witness_PublicOperationsAreStateless :
    let s := { responding respA with acc := some 0x5A, bufValid := true, buf := [(0, 0xFF)], pc := 3 }
    running s = true ∧ running (responding respA) = true ∧ s.writeReplies = (responding respA).writeReplies ∧
    s.readReplies = (responding respA).readReplies ∧ s.delayReplies = (responding respA).delayReplies ∧
    s.draws = (responding respA).draws ∧ ∃ t, exec .snsReadCo2 s = .next t ∧ running t = true :=
  ⟨rfl, rfl, rfl, rfl, rfl, rfl, _, rfl, rfl⟩

theorem witness_BusCommandsAreOneWrite : (wired [.done] [] []).nextWrite = .done ∧
    (wired [.failed 7] [] []).nextWrite = .failed 7 := by decide

theorem witness_ReadingsStayInTheirDomains :
    (∃ t, exec .snsReadCo2 (responding respA) = .next t ∧ t.outputs = [] ++ [.co2 400]) ∧
    (∃ t, exec .snsReadTemp (responding respB) = .next t ∧ t.outputs = [] ++ [.real .notANumber]) ∧
    ∃ t, exec .snsReadHum (responding respB) = .next t ∧ t.outputs = [] ++ [.real (.value 50)] :=
  ⟨⟨_, rfl, by decide +kernel⟩, ⟨_, rfl, by decide +kernel⟩, ⟨_, rfl, by decide +kernel⟩⟩

end Sys2Proof.Tests
end

section
/-! What each instruction can do, said once for all of them: an operation without a primitive by its three endings,
a bus operation as a function of the state alone once the transport's answers are fixed (10_state.md R25). -/

namespace Sys2Proof.Safety

open Sys2Proof.Machine

variable {i : Instr} {s t : State} {g : State → State}

/-! ### Which instruction decodes, and the kinds of bus operation -/

/-- The host decoder answers host operations only (30_encoding.md R52). -/
theorem formatOf_of_decode {w : Word} (h : decode .hostop w = .ok i) : formatOf i = .hostop := by
  rcases decodeHostWord_cases h with ⟨-, h⟩ | ⟨-, h⟩ | ⟨-, h⟩ | ⟨-, h⟩ | ⟨-, h⟩ | ⟨-, h⟩ | ⟨-, h⟩ | ⟨-, h⟩ | ⟨-, h⟩
  · obtain ⟨-, -, -, rfl⟩ := decodePlain_ok.mp h; rfl
  · obtain ⟨-, -, rfl⟩ := decodeUpdate_ok.mp h; rfl
  · obtain ⟨-, -, -, rfl⟩ := decodePlain_ok.mp h; rfl
  · obtain ⟨-, -, -, rfl⟩ := decodeChk_ok.mp h; rfl
  all_goals obtain ⟨-, -, -, rfl⟩ := decodePlain_ok.mp h; rfl

/-- The operations that return one reading of a fresh response (42_sensor_transactions.md R92-R94). -/
def readOps : List Instr := [.snsReadCo2, .snsReadTemp, .snsReadHum]

/-- The operations that run `fetch_body` (R87, R92-R94). -/
def fetchOps : List Instr := .snsFetch :: readOps

/-- The operations that ask a primitive. -/
def busOps : List Instr := .snsStart :: fetchOps ++ [.busStart, .busRead]

theorem mem_fetchOps_of_read (hi : i ∈ readOps) : i ∈ fetchOps := List.mem_cons_of_mem _ hi

theorem mem_busOps_of_fetch (hi : i ∈ fetchOps) : i ∈ busOps := List.mem_append_left _ (List.mem_cons_of_mem _ hi)

theorem ne_snsFetch_of_read (hi : i ∈ readOps) : i ≠ .snsFetch := by
  rintro rfl
  exact absurd hi (by decide)

theorem formatOf_of_fetch (hi : i ∈ fetchOps) : formatOf i = .hostop := by
  simp only [fetchOps, readOps, List.mem_cons, List.not_mem_nil, or_false] at hi
  rcases hi with rfl | rfl | rfl | rfl <;> rfl

theorem running_iff : running s = true ↔ s.fault = none ∧ s.stuck = false := by
  simp [running]

/-! ### The answers of the transport -/

/-- The transport answers the next primitives alike in both states (10_state.md R25; log 3). -/
structure SameAnswers (s t : State) : Prop where
  writeReplies : s.writeReplies = t.writeReplies
  readReplies : s.readReplies = t.readReplies
  delayReplies : s.delayReplies = t.delayReplies
  draws : s.draws = t.draws

theorem SameAnswers.refl (s : State) : SameAnswers s s := ⟨rfl, rfl, rfl, rfl⟩

theorem SameAnswers.nextWrite_eq (h : SameAnswers s t) : t.nextWrite = s.nextWrite :=
  nextWrite_congr h.writeReplies.symm h.draws.symm

theorem SameAnswers.nextRead_eq (h : SameAnswers s t) : t.drewWrite.nextRead = s.drewWrite.nextRead :=
  nextRead_congr h.readReplies.symm (congrArg (· + 1) h.draws.symm)

theorem SameAnswers.nextDelay_eq (h : SameAnswers s t) : t.drewWrite.nextDelay = s.drewWrite.nextDelay :=
  nextDelay_congr h.delayReplies.symm (congrArg (· + 1) h.draws.symm)

/-! ### What a bus operation does under fixed answers -/

/-- What a bus operation can do to the state before it, under fixed answers of the transport (R81, R85-R94). -/
inductive BusEffect : Instr → (State → State) → Prop
  | started : BusEffect .snsStart fun s => ((afterStart s).drewDelay.record (.delay Config.settleMs)).complete .empty
  | fetched (bs : List Byte) : bs.length = 9 → BusEffect .snsFetch fun s => (afterFetch s bs).complete .empty
  | reading (i : Instr) (bs : List Byte) (o : Output) : i ∈ readOps → bs.length = 9 → legalOutput o →
      BusEffect i fun s => ((afterFetch s bs).setBufValid false).complete o
  | sent (i : Instr) (w : Word) : formatOf i = .buscmd →
      BusEffect i fun s => s.drewWrite.record (.write Config.devAddr w)
  | writeFailed (i : Instr) (f : FaultRecord) : i ∉ fetchOps → legalFault f = true →
      BusEffect i fun s => s.drewWrite.raise f
  | fetchWriteFailed (i : Instr) (f : FaultRecord) : i ∈ fetchOps → legalFault f = true →
      BusEffect i fun s => (s.drewWrite.setBufValid false).raise f
  | fetchReadFailed (i : Instr) (f : FaultRecord) : i ∈ fetchOps → legalFault f = true →
      BusEffect i fun s => ((afterCommand s).drewRead.setBufValid false).raise f
  | writeHung (i : Instr) : BusEffect i fun s => s.drewWrite.setStuck
  | delayHung : BusEffect .snsStart fun s => (afterStart s).drewDelay.setStuck
  | readHung (i : Instr) : i ∈ fetchOps → BusEffect i fun s => (afterCommand s).drewRead.setStuck

/-- The answers of the transport alone choose how `fetch_body` ends (R87, R88). -/
theorem fetchBody_of_sameAnswers (s : State) :
    (∃ bs : List Byte, bs.length = 9 ∧ ∀ t, SameAnswers s t → fetchBody t = .completed () (afterFetch t bs)) ∨
    (∃ f, legalFault f = true ∧ ∀ t, SameAnswers s t → fetchBody t = .failed f (t.drewWrite.setBufValid false)) ∨
    (∃ f, legalFault f = true ∧ ∀ t, SameAnswers s t →
      fetchBody t = .failed f ((afterCommand t).drewRead.setBufValid false)) ∨
    (∀ t, SameAnswers s t → fetchBody t = .pending t.drewWrite) ∨
    (∀ t, SameAnswers s t → fetchBody t = .pending (afterCommand t).drewRead) := by
  cases hw : s.nextWrite with
  | failed f =>
    refine .inr (.inl ⟨.transport (.reported f) Config.devAddr (.write Config.cmdRead), rfl, fun t h => ?_⟩)
    simp [fetchBody, fetchTransaction, busWrite, h.nextWrite_eq, hw, clearOnFailure]
  | never =>
    refine .inr (.inr (.inr (.inl fun t h => ?_)))
    simp [fetchBody, fetchTransaction, busWrite, h.nextWrite_eq, hw, clearOnFailure]
  | done =>
    have htrans (t : State) (h : SameAnswers s t) :
        fetchTransaction t = busRead Config.devAddr Config.respLen (afterCommand t) := by
      simp [fetchTransaction, busWrite, h.nextWrite_eq, hw, afterCommand]
    cases hr : s.drewWrite.nextRead with
    | failed f =>
      refine .inr (.inr (.inl ⟨.transport (.reported f) Config.devAddr (.read Config.respLen), rfl, fun t h => ?_⟩))
      simp [fetchBody, htrans t h, busRead, afterCommand, h.nextRead_eq, hr, clearOnFailure]
    | never =>
      refine .inr (.inr (.inr (.inr fun t h => ?_)))
      simp [fetchBody, htrans t h, busRead, afterCommand, h.nextRead_eq, hr, clearOnFailure]
    | bytes bs =>
      by_cases hl : bs.length = Config.respLen
      · refine .inl ⟨bs, hl, fun t h => ?_⟩
        simp [fetchBody, htrans t h, busRead, afterCommand, h.nextRead_eq, hr, hl, clearOnFailure, afterFetch]
      · refine .inr (.inr (.inl ⟨.transport .shortRead Config.devAddr (.read Config.respLen), rfl, fun t h => ?_⟩))
        simp [fetchBody, htrans t h, busRead, afterCommand, h.nextRead_eq, hr, hl, clearOnFailure]

/-- The parse of a word reads nine bytes at most, and nothing else of the state (41_response_parser.md R71-R73). -/
theorem parseWord_congr {k : BitVec 2} (hk : wordIndexOk k = true)
    (h : ∀ a < 9, Memory.read s.buf a = Memory.read t.buf a) : s.parseWord k = t.parseWord k := by
  have hk3 : k.toNat < 3 := by
    have hall : ∀ k : BitVec 2, wordIndexOk k = true → k.toNat < 3 := by decide
    exact hall k hk
  simp only [State.parseWord, State.memRead2, State.checkWord, wordOff, crcOff, h (3 * k.toNat) (by omega),
    h (3 * k.toNat + 1) (by omega), h (3 * k.toNat + 2) (by omega)]

/-- Under fixed answers a read of the sensor has one effect, whatever the buffer held (R92-R94). -/
theorem readOp_effect {k : BitVec 2} (hi : i ∈ readOps) (hk : wordIndexOk k = true)
    {output : Word → Bool → Output} (ho : ∀ raw v, legalOutput (output raw v))
    (hexec : ∀ t, exec i t = .next ((fetchBody t).endState fun _ u => finishRead k output u)) (s : State) :
    ∃ g, BusEffect i g ∧ ∀ t, SameAnswers s t → exec i t = .next (g t) := by
  have hif : i ∈ fetchOps := mem_fetchOps_of_read hi
  rcases fetchBody_of_sameAnswers s with ⟨bs, hl, he⟩ | ⟨f, hf, he⟩ | ⟨f, hf, he⟩ | he | he
  · obtain ⟨raw, v, hp, -⟩ := finishRead_of_full (output := output) (afterFetch_full s hl) hk
    refine ⟨_, .reading i bs (output raw v) hi hl (ho raw v), fun t h => ?_⟩
    have hpt : (afterFetch t bs).parseWord k = some (raw, v) :=
      (parseWord_congr hk fun a ha => by rw [afterFetch_read t hl ha, afterFetch_read s hl ha]).trans hp
    simp only [hexec, he t h, endState_completed, finishRead, hpt]
  · exact ⟨_, .fetchWriteFailed i f hif hf, fun t h => by rw [hexec, he t h, endState_failed]⟩
  · exact ⟨_, .fetchReadFailed i f hif hf, fun t h => by rw [hexec, he t h, endState_failed]⟩
  · exact ⟨_, .writeHung i, fun t h => by rw [hexec, he t h, endState_pending]⟩
  · exact ⟨_, .readHung i hif, fun t h => by rw [hexec, he t h, endState_pending]⟩

/-- Under fixed answers SNS.FETCH has one effect (R87, R88). -/
theorem snsFetch_effect (s : State) :
    ∃ g, BusEffect .snsFetch g ∧ ∀ t, SameAnswers s t → exec .snsFetch t = .next (g t) := by
  have hif : Instr.snsFetch ∈ fetchOps := List.mem_cons_self
  simp only [exec, execSnsFetch]
  rcases fetchBody_of_sameAnswers s with ⟨bs, hl, he⟩ | ⟨f, hf, he⟩ | ⟨f, hf, he⟩ | he | he
  · exact ⟨_, .fetched bs hl, fun t h => by rw [he t h, endState_completed]⟩
  · exact ⟨_, .fetchWriteFailed _ f hif hf, fun t h => by rw [he t h, endState_failed]⟩
  · exact ⟨_, .fetchReadFailed _ f hif hf, fun t h => by rw [he t h, endState_failed]⟩
  · exact ⟨_, .writeHung _, fun t h => by rw [he t h, endState_pending]⟩
  · exact ⟨_, .readHung _ hif, fun t h => by rw [he t h, endState_pending]⟩

/-- Under fixed answers SNS.START has one effect (R85). -/
theorem snsStart_effect (s : State) :
    ∃ g, BusEffect .snsStart g ∧ ∀ t, SameAnswers s t → exec .snsStart t = .next (g t) := by
  simp only [exec, execSnsStart]
  cases hw : s.nextWrite with
  | failed f =>
    exact ⟨_, .writeFailed _ (.transport (.reported f) Config.devAddr (.write Config.cmdStart)) (by decide) rfl,
      fun t h => by simp [busWrite, h.nextWrite_eq, hw]⟩
  | never => exact ⟨_, .writeHung _, fun t h => by simp [busWrite, h.nextWrite_eq, hw]⟩
  | done =>
    cases hd : s.drewWrite.nextDelay with
    | elapsed =>
      exact ⟨_, .started, fun t h => by simp [busWrite, h.nextWrite_eq, hw, busDelay, h.nextDelay_eq, hd, afterStart]⟩
    | never =>
      exact ⟨_, .delayHung, fun t h => by simp [busWrite, h.nextWrite_eq, hw, busDelay, h.nextDelay_eq, hd, afterStart]⟩

/-- Under fixed answers a bus command word has one effect (30_encoding.md R46). -/
theorem busCommand_effect {w : Word} (hi : formatOf i = .buscmd) (hw : w = Config.cmdStart ∨ w = Config.cmdRead)
    (hexec : ∀ t, exec i t = .next ((busWrite Config.devAddr w t).endState fun _ u => u)) (s : State) :
    ∃ g, BusEffect i g ∧ ∀ t, SameAnswers s t → exec i t = .next (g t) := by
  cases ha : s.nextWrite with
  | done => exact ⟨_, .sent i w hi, fun t h => by simp [hexec, busWrite, h.nextWrite_eq, ha]⟩
  | failed f =>
    have hni : i ∉ fetchOps := fun hf => by simp [formatOf_of_fetch hf] at hi
    exact ⟨_, .writeFailed i (.transport (.reported f) Config.devAddr (.write w)) hni (by simp [legalFault, hw]),
      fun t h => by simp [hexec, busWrite, h.nextWrite_eq, ha]⟩
  | never => exact ⟨_, .writeHung i, fun t h => by simp [hexec, busWrite, h.nextWrite_eq, ha]⟩

/-! ### The outputs stay in their domains (42_sensor_transactions.md R97) -/

theorem legalOutput_co2 (raw : Word) (v : Bool) : legalOutput (co2Output raw v) := by
  have := raw.isLt
  cases v with
  | false => exact .inl rfl
  | true => exact .inr ⟨Int.natCast_nonneg _, by show (raw.toNat : Int) ≤ 65535; omega⟩

theorem legalOutput_temp (raw : Word) (v : Bool) : legalOutput (tempOutput raw v) := by
  cases v with
  | false => trivial
  | true => exact ⟨raw, .inl rfl⟩

theorem legalOutput_hum (raw : Word) (v : Bool) : legalOutput (humOutput raw v) := by
  cases v with
  | false => trivial
  | true => exact ⟨raw, .inr rfl⟩

/-! ### Every instruction -/

/-- Under fixed answers a bus operation has one effect, whatever else the state holds. -/
theorem busOp_effect (hi : i ∈ busOps) (s : State) :
    ∃ g, BusEffect i g ∧ ∀ t, SameAnswers s t → exec i t = .next (g t) := by
  cases i with
  | snsStart => exact snsStart_effect s
  | snsFetch => exact snsFetch_effect s
  | snsReadCo2 => exact readOp_effect (by decide) (by decide) legalOutput_co2 (fun _ => rfl) s
  | snsReadTemp => exact readOp_effect (by decide) (by decide) legalOutput_temp (fun _ => rfl) s
  | snsReadHum => exact readOp_effect (by decide) (by decide) legalOutput_hum (fun _ => rfl) s
  | busStart => exact busCommand_effect rfl (.inl rfl) (fun _ => rfl) s
  | busRead => exact busCommand_effect rfl (.inr rfl) (fun _ => rfl) s
  | crcInit | crcUpdate | crcRead | chkWord => simp [busOps, fetchOps, readOps] at hi

/-- Everything an operation that asks no primitive can do: complete, with or without a new `acc`, or raise a fault. -/
theorem localOp_cases (hi : i ∉ busOps) (h : exec i s = .next t) :
    (∃ v o, legalOutput o ∧ t = (s.setAcc v).complete o) ∨ (∃ o, legalOutput o ∧ t = s.complete o) ∨
    (∃ f, legalFault f = true ∧ t = s.raise f) := by
  cases i with
  | crcInit => cases h; exact .inl ⟨Config.crcInit, .empty, trivial, rfl⟩
  | crcUpdate b =>
    simp only [exec, execCrcUpdate] at h
    split at h <;> cases h
    · exact .inr (.inr ⟨.accUninitialised .update, rfl, rfl⟩)
    · exact .inl ⟨_, .empty, trivial, rfl⟩
  | crcRead =>
    simp only [exec, execCrcRead] at h
    split at h <;> cases h
    · exact .inr (.inr ⟨.accUninitialised .read, rfl, rfl⟩)
    · next a _ => exact .inr (.inl ⟨.byte a, trivial, rfl⟩)
  | chkWord k =>
    rcases execChkWord_cases k s with ⟨raw, v, -, -, -, he⟩ | ⟨hk, -, he⟩ | ⟨hk, he⟩ <;> cases h.symm.trans he
    · exact .inr (.inl ⟨.word raw v, trivial, rfl⟩)
    · exact .inr (.inr ⟨.noResponse k, hk, rfl⟩)
    · have hk3 : k = 3 := by simpa [wordIndexOk] using hk
      exact .inr (.inr ⟨.refused (encode (.chkWord k)), by rw [hk3]; decide, rfl⟩)
  | snsStart | snsFetch | snsReadCo2 | snsReadTemp | snsReadHum | busStart | busRead =>
    simp [busOps, fetchOps, readOps] at hi

/-- What a bus operation did is one of its effects. -/
theorem busOp_cases (hi : i ∈ busOps) (h : exec i s = .next t) : ∃ g, BusEffect i g ∧ t = g s := by
  obtain ⟨g, hg, he⟩ := busOp_effect hi s
  exact ⟨g, hg, by cases h.symm.trans (he s (.refl s)); rfl⟩

end Sys2Proof.Safety
end

section
/-! How a host operation ends: it completes, or the block stops. Both keep the invariant. -/

namespace Sys2Proof.Safety

open Sys2Proof.Machine

variable {i : Instr} {s t : State} {g : State → State}

/-- What a host operation that ends in Ok leaves (10_state.md R17, R18, R22, R23; 20_memory.md R40). -/
structure Completes (s t : State) : Prop where
  program : t.program = s.program
  pc : t.pc = s.pc + 1
  outputs : ∃ o, legalOutput o ∧ t.outputs = s.outputs ++ [o]
  fault : t.fault = s.fault
  stuck : t.stuck = s.stuck
  /-- Whole transactions that read nothing and leave the buffer, or the one that fills it with what it read. -/
  buffer : (t.buf = s.buf ∧ t.bufValid = s.bufValid ∧
      ∃ l, t.trace = s.trace ++ l ∧ wholeTransactions l = true ∧ lastRead l = none) ∨
    ∃ bs, bs.length = 9 ∧ t.buf = Memory.fill s.buf 0 bs ∧
      t.trace = s.trace ++ [.write Config.devAddr Config.cmdRead, .read Config.devAddr Config.respLen bs]

/-- What an operation leaves that raises a fault or never completes (60_exceptions.md R100, R107; R81). -/
structure StopsIn (s t : State) : Prop where
  program : t.program = s.program
  pc : t.pc = s.pc
  outputs : t.outputs = s.outputs
  buf : t.buf = s.buf
  bufValid : t.bufValid = true → s.bufValid = true
  trace : ∃ l, t.trace = s.trace ++ l ∧ brokenOff l = true ∧ lastRead l = none
  ending : (∃ f, legalFault f = true ∧ t.fault = some f ∧ t.stuck = false) ∨ (t.fault = none ∧ t.stuck = true)

theorem Completes.running (h : Completes s t) (hs : running s = true) : running t = true := by
  obtain ⟨hf, hst⟩ := running_iff.mp hs
  exact running_iff.mpr ⟨h.fault.trans hf, h.stuck.trans hst⟩

theorem StopsIn.not_running (h : StopsIn s t) : running t = false := by
  rcases h.ending with ⟨f, -, hf, -⟩ | ⟨-, hs⟩
  · simp [Safety.running, hf]
  · simp [Safety.running, hs]

/-- Raising a legal fault stops a running block and leaves the rest (R100). -/
theorem stopsIn_raise {f : FaultRecord} (hs : running s = true) (hf : legalFault f = true) : StopsIn s (s.raise f) :=
  ⟨rfl, rfl, rfl, rfl, id, ⟨[], (List.append_nil _).symm, rfl, rfl⟩, .inl ⟨f, hf, rfl, (running_iff.mp hs).2⟩⟩

theorem completes_complete {o : Output} (ho : legalOutput o) : Completes s (s.complete o) :=
  ⟨rfl, rfl, ⟨o, ho, rfl⟩, rfl, rfl, .inl ⟨rfl, rfl, [], (List.append_nil _).symm, rfl, rfl⟩⟩

/-- The two events of a completed `fetch_body` (R87). -/
theorem afterFetch_trace (s : State) (bs : List Byte) : (afterFetch s bs).trace =
    s.trace ++ [.write Config.devAddr Config.cmdRead, .read Config.devAddr Config.respLen bs] :=
  List.append_assoc ..

/-- A host operation's effect on a running block completes or stops it. -/
theorem BusEffect.completes_or_stopsIn (h : BusEffect i g) (hi : formatOf i = .hostop) (hs : running s = true) :
    Completes s (g s) ∨ StopsIn s (g s) := by
  obtain ⟨hfault, hstuck⟩ := running_iff.mp hs
  cases h with
  | started =>
    exact .inl ⟨rfl, rfl, ⟨.empty, trivial, rfl⟩, rfl, rfl, .inl ⟨rfl, rfl, _, List.append_assoc .., rfl, rfl⟩⟩
  | fetched bs hl =>
    exact .inl ⟨rfl, rfl, ⟨.empty, trivial, rfl⟩, rfl, rfl, .inr ⟨bs, hl, rfl, afterFetch_trace s bs⟩⟩
  | reading _ bs o _ hl ho =>
    exact .inl ⟨rfl, rfl, ⟨o, ho, rfl⟩, rfl, rfl, .inr ⟨bs, hl, rfl, afterFetch_trace s bs⟩⟩
  | sent _ w hb => simp [hi] at hb
  | writeFailed _ f _ hf =>
    exact .inr ⟨rfl, rfl, rfl, rfl, id, ⟨[], (List.append_nil _).symm, rfl, rfl⟩, .inl ⟨f, hf, rfl, hstuck⟩⟩
  | fetchWriteFailed _ f _ hf =>
    exact .inr ⟨rfl, rfl, rfl, rfl, nofun, ⟨[], (List.append_nil _).symm, rfl, rfl⟩, .inl ⟨f, hf, rfl, hstuck⟩⟩
  | fetchReadFailed _ f _ hf =>
    exact .inr ⟨rfl, rfl, rfl, rfl, nofun, ⟨_, rfl, rfl, rfl⟩, .inl ⟨f, hf, rfl, hstuck⟩⟩
  | writeHung =>
    exact .inr ⟨rfl, rfl, rfl, rfl, id, ⟨[], (List.append_nil _).symm, rfl, rfl⟩, .inr ⟨hfault, rfl⟩⟩
  | delayHung | readHung => exact .inr ⟨rfl, rfl, rfl, rfl, id, ⟨_, rfl, rfl, rfl⟩, .inr ⟨hfault, rfl⟩⟩

/-- A host operation of a running block completes, or it stops the block. -/
theorem exec_completes_or_stopsIn (hi : formatOf i = .hostop) (hs : running s = true) (h : exec i s = .next t) :
    Completes s t ∨ StopsIn s t := by
  by_cases hb : i ∈ busOps
  · obtain ⟨g, hg, rfl⟩ := busOp_cases hb h
    exact hg.completes_or_stopsIn hi hs
  · rcases localOp_cases hb h with ⟨v, o, ho, rfl⟩ | ⟨o, ho, rfl⟩ | ⟨f, hf, rfl⟩
    · exact .inl ⟨rfl, rfl, ⟨o, ho, rfl⟩, rfl, rfl, .inl ⟨rfl, rfl, [], (List.append_nil _).symm, rfl, rfl⟩⟩
    · exact .inl (completes_complete ho)
    · exact .inr (stopsIn_raise hs hf)

/-- A step starts from a running block with a word left; it completes an operation, or it stops the block. -/
theorem step_completes_or_stopsIn (h : step s = .next t) :
    running s = true ∧ s.pc < s.program.length ∧ (Completes s t ∨ StopsIn s t) := by
  obtain ⟨hf, hst, w, hw, hcases⟩ := step_cases h
  have hs : running s = true := running_iff.mpr ⟨hf, hst⟩
  refine ⟨hs, (List.getElem?_eq_some_iff.mp hw).1, ?_⟩
  rcases hcases with ⟨i, hd, he⟩ | ⟨e, hd, rfl⟩
  · exact exec_completes_or_stopsIn (formatOf_of_decode hd) hs he
  · exact .inr (stopsIn_raise hs (by simp [legalFault, accepted, hd]))

/-- Nine bytes filled in at offset 0 are what the nine offsets hold. -/
theorem read_fill_of_lt (m : List Host.Cell) {bs : List Byte} (hl : bs.length = 9) :
    ∀ a < 9, Memory.read (Memory.fill m 0 bs) a = bs[a]? :=
  fun a ha => by simp [Memory.read_fill_eq, hl, ha]

/-- No other offset changes. -/
theorem read_fill_of_le (m : List Host.Cell) {bs : List Byte} (hl : bs.length = 9) :
    ∀ a, 9 ≤ a → Memory.read (Memory.fill m 0 bs) a = Memory.read m a :=
  fun a ha => by simp [Memory.read_fill_eq, hl, Nat.not_lt.mpr ha]

theorem brokenOff_of_whole {l : List Event} (h : wholeTransactions l = true) : brokenOff l = true := by
  simpa using brokenOff_append h (m := []) rfl

theorem Completes.wholeTransactions (h : Completes s t) (hs : wholeTransactions s.trace = true) :
    wholeTransactions t.trace = true := by
  rcases h.buffer with ⟨-, -, l, htr, hl, -⟩ | ⟨bs, hl, -, htr⟩ <;> rw [htr] <;> apply wholeTransactions_append hs
  · exact hl
  · simp [Safety.wholeTransactions, fetchPair, hl, Config.respLen]

/-- A completed operation keeps the invariant. -/
theorem RunInv.completes (hinv : RunInv s) (hs : running s = true) (hpc : s.pc < s.program.length)
    (h : Completes s t) : RunInv t := by
  have hwhole : Safety.wholeTransactions t.trace = true := h.wholeTransactions (hinv.traceWhole hs)
  have hfault : t.fault = none := h.fault.trans (running_iff.mp hs).1
  obtain ⟨o, ho, hout⟩ := h.outputs
  refine
    { bufWf := ?_, bufFull := ?_, bufResponse := ?_, traceWhole := fun _ => hwhole,
      traceBroken := brokenOff_of_whole hwhole, pcCounts := ?_, pcInProgram := ?_,
      faultLegal := fun f hf => by simp [hfault] at hf, stuckNoFault := fun _ => hfault, outputsLegal := ?_ }
  · rcases h.buffer with ⟨hbuf, -⟩ | ⟨bs, hl, hbuf, -⟩ <;> rw [hbuf]
    · exact hinv.bufWf
    · exact Memory.fill_keeps_wf (by omega) hinv.bufWf
  · rcases h.buffer with ⟨hbuf, hv, -⟩ | ⟨bs, hl, hbuf, -⟩ <;> rw [hbuf]
    · exact fun ht => hinv.bufFull (hv ▸ ht)
    · exact fun _ => Memory.full_fill _ hl
  · intro ht
    rcases h.buffer with ⟨hbuf, hv, l, htr, -, hread⟩ | ⟨bs, hl, hbuf, htr⟩ <;> rw [hbuf, htr]
    · rw [lastRead_append_of_none hread]
      exact hinv.bufResponse (hv ▸ ht)
    · exact ⟨bs, by rw [List.append_cons, lastRead_append_read], read_fill_of_lt s.buf hl⟩
  · rw [h.pc, hout, hinv.pcCounts, List.length_append, List.length_singleton]
  · rw [h.pc, h.program]
    exact hpc
  · rw [hout]
    exact List.forall_mem_append.mpr ⟨hinv.outputsLegal, List.forall_mem_singleton.mpr ho⟩

/-- A stop keeps the invariant. -/
theorem RunInv.stopsIn (hinv : RunInv s) (hs : running s = true) (h : StopsIn s t) : RunInv t := by
  obtain ⟨l, htr, hbroken, hread⟩ := h.trace
  refine
    { bufWf := by rw [h.buf]; exact hinv.bufWf
      bufFull := fun ht => by rw [h.buf]; exact hinv.bufFull (h.bufValid ht)
      bufResponse := fun ht => ?_
      traceWhole := fun ht => by simp [h.not_running] at ht
      traceBroken := by rw [htr]; exact brokenOff_append (hinv.traceWhole hs) hbroken
      pcCounts := by rw [h.pc, h.outputs]; exact hinv.pcCounts
      pcInProgram := by rw [h.pc, h.program]; exact hinv.pcInProgram
      faultLegal := fun f hf => ?_
      stuckNoFault := fun ht => ?_
      outputsLegal := by rw [h.outputs]; exact hinv.outputsLegal }
  · rw [htr, lastRead_append_of_none hread, h.buf]
    exact hinv.bufResponse (h.bufValid ht)
  · rcases h.ending with ⟨f', hlegal, hf', -⟩ | ⟨hnone, -⟩
    · cases hf'.symm.trans hf
      exact hlegal
    · simp [hnone] at hf
  · rcases h.ending with ⟨-, -, -, hst⟩ | ⟨hnone, -⟩
    · simp [hst] at ht
    · exact hnone

/-- Settles O16: a step completes an operation or stops the block, and both keep the invariant. -/
theorem stepKeepsInvariant : Obligations.StepKeepsInvariant := by
  intro s t hinv h
  obtain ⟨hs, hpc, hc | hstop⟩ := step_completes_or_stopsIn h
  · exact hinv.completes hs hpc hc
  · exact hinv.stopsIn hs hstop

/-- Settles O13: the two endings of a step are the two alternatives. -/
theorem stepAdvancesByOneOrStops : Obligations.StepAdvancesByOneOrStops := by
  intro s t h
  obtain ⟨hs, -, hc | hstop⟩ := step_completes_or_stopsIn h
  · obtain ⟨o, -, hout⟩ := hc.outputs
    exact ⟨hc.program, .inl ⟨hc.running hs, hc.pc, o, hout⟩⟩
  · exact ⟨hstop.program, .inr ⟨hstop.not_running, hstop.pc, hstop.outputs⟩⟩

/-- Settles O9: of the five things a fetch can find, a running block whose word decodes finds its instruction. -/
theorem stepRunsDecoded : Obligations.StepRunsDecoded := by
  intro s w i hs hw hd
  obtain ⟨hf, hst⟩ := running_iff.mp hs
  have hfetch : fetch s = .instr i := by simp [fetch, hf, hst, hw, fetchWord, hd]
  simp only [step, hfetch]

end Sys2Proof.Safety
end

section
/-! What an effect leaves alone, and what it cannot read: the frame of each bus operation (10_state.md R16-R19, R27). -/

namespace Sys2Proof.Safety

open Sys2Proof.Machine

variable {i : Instr} {s t : State} {g : State → State}

/-! ### The fields of an effect -/

theorem BusEffect.acc_eq (h : BusEffect i g) (s : State) : (g s).acc = s.acc := by
  cases h <;> rfl

/-- No effect reads `acc` (R16). -/
theorem BusEffect.with_acc (h : BusEffect i g) (s : State) (v : Option Byte) :
    g { s with acc := v } = { g s with acc := v } := by
  cases h <;> rfl

/-- An effect appends the same events to any trace, at most two (R19). -/
theorem BusEffect.events (h : BusEffect i g) :
    ∃ evs : List Event, evs.length ≤ 2 ∧ ∀ s, (g s).trace = s.trace ++ evs := by
  cases h with
  | started => exact ⟨_, le_rfl, fun s => List.append_assoc ..⟩
  | fetched bs | reading _ bs => exact ⟨_, le_rfl, fun s => afterFetch_trace s bs⟩
  | sent | fetchReadFailed | delayHung | readHung => exact ⟨[_], Nat.le_succ 1, fun s => rfl⟩
  | writeFailed | fetchWriteFailed | writeHung => exact ⟨[], Nat.zero_le 2, fun s => (List.append_nil _).symm⟩

/-- An effect returns the same outputs whatever was returned before. -/
theorem BusEffect.outputs_eq (h : BusEffect i g) : ∃ outs, ∀ s, (g s).outputs = s.outputs ++ outs := by
  cases h with
  | started | fetched | reading => exact ⟨_, fun s => rfl⟩
  | sent | writeFailed | fetchWriteFailed | fetchReadFailed | writeHung | delayHung | readHung =>
    exact ⟨[], fun s => (List.append_nil _).symm⟩

/-- An effect ends two running blocks in the same fault or none, and hangs both or neither. -/
theorem BusEffect.ending_congr (h : BusEffect i g) (hs : running s = true) (ht : running t = true) :
    (g s).fault = (g t).fault ∧ (g s).stuck = (g t).stuck := by
  obtain ⟨hsf, hss⟩ := running_iff.mp hs
  obtain ⟨htf, hts⟩ := running_iff.mp ht
  cases h <;> exact ⟨by simp [afterStart, afterCommand, afterFetch, hsf, htf],
    by simp [afterStart, afterCommand, afterFetch, hss, hts]⟩

/-- Only a fetching operation touches the buffer (R17, R18). -/
theorem BusEffect.buffer_of_not_fetch (h : BusEffect i g) (hi : i ∉ fetchOps) (s : State) :
    (g s).buf = s.buf ∧ (g s).bufValid = s.bufValid := by
  cases h with
  | fetched => exact absurd List.mem_cons_self hi
  | reading _ _ _ hr => exact absurd (mem_fetchOps_of_read hr) hi
  | fetchWriteFailed _ _ hf | fetchReadFailed _ _ hf | readHung _ hf => exact absurd hf hi
  | started | sent | writeFailed | writeHung | delayHung => exact ⟨rfl, rfl⟩

/-- A fetching operation writes the nine bytes it read, of which only SNS.FETCH leaves a valid buffer, or it stops the
block with the buffer as it was, invalid after a fault (R87, R88, R92-R94). -/
theorem BusEffect.buffer_of_fetch (h : BusEffect i g) (hi : i ∈ fetchOps) :
    (∃ bs : List Byte, bs.length = 9 ∧ ∀ s, (g s).buf = Memory.fill s.buf 0 bs ∧
      (g s).trace = s.trace ++ [.write 0x62 0xEC05, .read 0x62 9 bs] ∧
      (g s).fault = s.fault ∧ (g s).bufValid = decide (i = .snsFetch)) ∨
    ∀ s, (g s).buf = s.buf ∧ running (g s) = false ∧
      (running s = true → (g s).fault ≠ none → (g s).bufValid = false) := by
  cases h with
  | started | delayHung => exact absurd hi (by decide)
  | sent _ _ hb => simp [formatOf_of_fetch hi] at hb
  | writeFailed _ _ hn => exact absurd hi hn
  | fetched bs hl => exact .inl ⟨bs, hl, fun s => ⟨rfl, afterFetch_trace s bs, rfl, rfl⟩⟩
  | reading _ bs _ hr hl =>
    exact .inl ⟨bs, hl, fun s => ⟨rfl, afterFetch_trace s bs, rfl, (decide_eq_false (ne_snsFetch_of_read hr)).symm⟩⟩
  | fetchWriteFailed | fetchReadFailed => exact .inr fun s => ⟨rfl, by simp [running], fun _ _ => rfl⟩
  | writeHung | readHung =>
    exact .inr fun s => ⟨rfl, by simp [running], fun hs hf => absurd (running_iff.mp hs).1 hf⟩

/-! ### The obligations -/

/-- Settles O48: a bus operation's effect appends its events, and any other operation appends none. -/
theorem traceOnlyGrows : Obligations.TraceOnlyGrows := by
  intro i s t h
  by_cases hi : i ∈ busOps
  · obtain ⟨g, hg, rfl⟩ := busOp_cases hi h
    obtain ⟨evs, hlen, htr⟩ := hg.events
    exact ⟨evs, htr s, hlen, fun hn => absurd hi hn⟩
  · have htr : t.trace = s.trace := by
      rcases localOp_cases hi h with ⟨_, _, -, rfl⟩ | ⟨_, -, rfl⟩ | ⟨_, -, rfl⟩ <;> rfl
    exact ⟨[], by simp [htr], Nat.zero_le 2, fun _ => rfl⟩

/-- Settles O47: only a fetching effect touches the buffer, and it fills it with one response or not at all. -/
theorem whoWritesTheBuffer : Obligations.WhoWritesTheBuffer := by
  intro i s t hs h
  refine ⟨fun hi => ?_, fun hi => ?_⟩
  · have hsame : t.buf = s.buf ∧ t.bufValid = s.bufValid := by
      by_cases hb : i ∈ busOps
      · obtain ⟨g, hg, rfl⟩ := busOp_cases hb h
        exact hg.buffer_of_not_fetch hi s
      · rcases localOp_cases hb h with ⟨_, _, -, rfl⟩ | ⟨_, -, rfl⟩ | ⟨_, -, rfl⟩ <;> exact ⟨rfl, rfl⟩
    exact ⟨fun a => by rw [hsame.1], hsame.2⟩
  · obtain ⟨g, hg, rfl⟩ := busOp_cases (mem_busOps_of_fetch hi) h
    rcases hg.buffer_of_fetch hi with ⟨bs, hl, heff⟩ | heff
    · obtain ⟨hbuf, htr, hfault, hvalid⟩ := heff s
      refine ⟨.inr ⟨bs, hl, htr, ?_, ?_⟩, fun _ => hvalid, fun hf => absurd (hfault.trans (running_iff.mp hs).1) hf⟩
      · rw [hbuf]
        exact read_fill_of_lt s.buf hl
      · rw [hbuf]
        exact read_fill_of_le s.buf hl
    · obtain ⟨hbuf, hstop, hvalid⟩ := heff s
      exact ⟨.inl fun a => by rw [hbuf], fun hr => by simp [hstop] at hr, hvalid hs⟩

/-- CHK.WORD looks at the buffer and not at `acc` (R16). -/
theorem execChkWord_with_acc (k : BitVec 2) (s : State) (v : Option Byte) :
    ∃ t, execChkWord k s = .next t ∧ t.acc = s.acc ∧ execChkWord k { s with acc := v } = .next { t with acc := v } := by
  have hparse : State.parseWord { s with acc := v } k = s.parseWord k := rfl
  rcases execChkWord_cases k s with ⟨raw, b, hk, hv, hp, he⟩ | ⟨hk, hv | hp, he⟩ | ⟨hk, he⟩
  · exact ⟨_, he, rfl, by rw [execChkWord, if_pos hk, if_pos hv, hparse, hp]; rfl⟩
  · exact ⟨_, he, rfl, by rw [execChkWord, if_pos hk, if_neg (by simp [hv])]; rfl⟩
  · exact ⟨_, he, rfl, by simp [execChkWord, hk, hparse, hp, State.raise]⟩
  · exact ⟨_, he, rfl, by simp [execChkWord, hk, State.raise]⟩

/-- Settles O46: another `acc` leaves the answers of the transport alone, and so the effect, which does not read it. -/
theorem parserAndSequencerIgnoreAcc : Obligations.ParserAndSequencerIgnoreAcc := by
  intro i hi s v
  have hbus (hb : i ∈ busOps) :
      ∃ t, exec i s = .next t ∧ t.acc = s.acc ∧ exec i { s with acc := v } = .next { t with acc := v } := by
    obtain ⟨g, hg, he⟩ := busOp_effect hb s
    have hsame : SameAnswers s { s with acc := v } := ⟨rfl, rfl, rfl, rfl⟩
    exact ⟨g s, he s (.refl s), hg.acc_eq s, by rw [he _ hsame, hg.with_acc]⟩
  cases i with
  | chkWord k => exact execChkWord_with_acc k s v
  | snsStart | snsFetch | snsReadCo2 | snsReadTemp | snsReadHum => exact hbus (by decide)
  | crcInit | crcUpdate | crcRead | busStart | busRead => simp at hi

/-- Settles O50: two states in which the transport answers alike get the same effect. -/
theorem publicOperationsAreStateless : Obligations.PublicOperationsAreStateless := by
  intro i hi s t hs ht hw hr hd hn
  have hpublic : i = .snsStart ∨ i ∈ readOps := by simpa [readOps] using hi
  have hbus : i ∈ busOps := by
    rcases hpublic with rfl | hmem
    · decide
    · exact mem_busOps_of_fetch (mem_fetchOps_of_read hmem)
  obtain ⟨g, hg, he⟩ := busOp_effect hbus s
  obtain ⟨evs, -, htr⟩ := hg.events
  obtain ⟨outs, hout⟩ := hg.outputs_eq
  obtain ⟨hfault, hstuck⟩ := hg.ending_congr hs ht
  refine ⟨g s, g t, evs, outs, he s (.refl s), he t ⟨hw, hr, hd, hn⟩, htr s, htr t, hout s, hout t, hfault, hstuck,
    hg.acc_eq s, hg.acc_eq t, fun hstart => ?_, fun hne hrun => ?_⟩
  · subst hstart
    exact hg.buffer_of_not_fetch (by decide) s
  · have hread : i ∈ readOps := hpublic.resolve_left hne
    rcases hg.buffer_of_fetch (mem_fetchOps_of_read hread) with ⟨bs, hl, heff⟩ | heff
    · obtain ⟨hbufs, -, -, hvalid⟩ := heff s
      obtain ⟨hbuft, -⟩ := heff t
      refine ⟨by rw [hvalid, decide_eq_false (ne_snsFetch_of_read hread)], fun a ha => ?_⟩
      rw [hbufs, hbuft, read_fill_of_lt s.buf hl a ha, read_fill_of_lt t.buf hl a ha]
    · obtain ⟨-, hstop, -⟩ := heff s
      simp [hstop] at hrun

end Sys2Proof.Safety
end

section
/-! Host words by their four fields, the decoder and the encoder as inverses of each other, and what follows: the
match/mask table, the refusals and the count (30_encoding.md R46-R57). -/

namespace Sys2Proof

variable {w : Word} {i j : Instr} {f : Format}

/-! ### A host word and its fields (R49) -/

/-- The host word with these four fields, the most significant one first (R49). -/
def hostWord (op : BitVec 4) (res k : BitVec 2) (data : Byte) : Word := op ++ res ++ k ++ data

section
variable (op : BitVec 4) (res k : BitVec 2) (data : Byte)

@[simp] theorem dataField_hostWord : dataField (hostWord op res k data) = data :=
  BitVec.extractLsb'_append_eq_right

/-- A field above `data` is a field of the byte above it. -/
theorem extract_hostWord_high {start len : Nat} (h : 8 ≤ start) :
    (hostWord op res k data).extractLsb' start len = (op ++ res ++ k).extractLsb' (start - 8) len :=
  BitVec.extractLsb'_append_eq_of_le h

@[simp] theorem kField_hostWord : kField (hostWord op res k data) = k :=
  (extract_hostWord_high op res k data (Nat.le_refl 8)).trans BitVec.extractLsb'_append_eq_right

@[simp] theorem resField_hostWord : resField (hostWord op res k data) = res := calc
  resField (hostWord op res k data)
  _ = (op ++ res ++ k).extractLsb' 2 2 := extract_hostWord_high op res k data (by decide)
  _ = (op ++ res).extractLsb' 0 2 := BitVec.extractLsb'_append_eq_of_le (Nat.le_refl 2)
  _ = res := BitVec.extractLsb'_append_eq_right

@[simp] theorem opField_hostWord : opField (hostWord op res k data) = op := calc
  opField (hostWord op res k data)
  _ = (op ++ res ++ k).extractLsb' 4 4 := extract_hostWord_high op res k data (by decide)
  _ = (op ++ res).extractLsb' 2 4 := BitVec.extractLsb'_append_eq_of_le (by decide)
  _ = op := BitVec.extractLsb'_append_eq_left

end

/-- A word is put together again from its fields. -/
theorem hostWord_fields (w : Word) : hostWord (opField w) (resField w) (kField w) (dataField w) = w := by
  conv_rhs => rw [word_fields w]
  rw [hostWord, BitVec.append_assoc, BitVec.append_assoc]
  rfl

theorem eq_hostWord_iff {op : BitVec 4} {res k : BitVec 2} {data : Byte} :
    w = hostWord op res k data ↔ opField w = op ∧ resField w = res ∧ kField w = k ∧ dataField w = data := by
  constructor
  · rintro rfl
    simp
  · rintro ⟨rfl, rfl, rfl, rfl⟩
    exact (hostWord_fields w).symm

/-! ### The words of the instructions (R50) -/

/-- The host operations without an operand. -/
def plainOps : List Instr := [.crcInit, .crcRead, .snsStart, .snsFetch, .snsReadCo2, .snsReadTemp, .snsReadHum]

theorem encode_crcUpdate (b : Byte) : encode (.crcUpdate b) = hostWord 2 0 0 b := rfl

theorem encode_chkWord (k : BitVec 2) : encode (.chkWord k) = hostWord 4 0 k 0 := rfl

/-- A host operation without an operand is decoded from the word of its selector and zeros, and from no other. -/
theorem encode_of_decodePlain {op : BitVec 4} (hi : i ∈ plainOps) (he : encode i = hostWord op 0 0 0)
    (hop : opField w = op) (h : decodePlain w i = .ok j) : j.wf = true ∧ encode j = w := by
  obtain ⟨hres, hk, hdata, rfl⟩ := decodePlain_ok.mp h
  have hwf : ∀ i ∈ plainOps, i.wf = true := by decide
  exact ⟨hwf i hi, he.trans (eq_hostWord_iff.mpr ⟨hop, hres, hk, hdata⟩).symm⟩

theorem encode_of_decodeUpdate (hop : opField w = 2) (h : decodeUpdate w = .ok i) : i.wf = true ∧ encode i = w := by
  obtain ⟨hres, hk, rfl⟩ := decodeUpdate_ok.mp h
  exact ⟨rfl, (eq_hostWord_iff.mpr ⟨hop, hres, hk, rfl⟩).symm⟩

theorem encode_of_decodeChk (hop : opField w = 4) (h : decodeChk w = .ok i) : i.wf = true ∧ encode i = w := by
  obtain ⟨hres, hdata, hk, rfl⟩ := decodeChk_ok.mp h
  exact ⟨by simpa [Instr.wf, wordIndexOk] using hk, (eq_hostWord_iff.mpr ⟨hop, hres, rfl, hdata⟩).symm⟩

theorem encode_of_decodeHostWord (h : decodeHostWord w = .ok i) : i.wf = true ∧ encode i = w := by
  rcases decodeHostWord_cases h with ⟨hop, h⟩ | ⟨hop, h⟩ | ⟨hop, h⟩ | ⟨hop, h⟩ | ⟨hop, h⟩ | ⟨hop, h⟩ | ⟨hop, h⟩ |
    ⟨hop, h⟩ | ⟨hop, h⟩
  case inr.inl => exact encode_of_decodeUpdate hop h
  case inr.inr.inr.inl => exact encode_of_decodeChk hop h
  all_goals exact encode_of_decodePlain (by decide) rfl hop h

theorem decodeBusWord_ok :
    decodeBusWord w = .ok i ↔ (w = Config.cmdStart ∧ i = .busStart) ∨ (w = Config.cmdRead ∧ i = .busRead) := by
  unfold decodeBusWord
  by_cases hstart : w = Config.cmdStart
  · simp [hstart, Config.cmdStart, Config.cmdRead, eq_comm]
  · by_cases hread : w = Config.cmdRead
    · simp [hread, Config.cmdStart, Config.cmdRead, eq_comm]
    · simp [hstart, hread]

/-! ### The decoder and the encoder are inverses -/

/-- Settles O2: a word's fields are those it was encoded from, so the decoder finds the selector and the operand. -/
theorem decodeEncodeAgree : Obligations.DecodeEncodeAgree := by
  intro i hwf
  cases i with
  | crcUpdate b =>
    have hsel : decodeHostWord (hostWord 2 0 0 b) = decodeUpdate (hostWord 2 0 0 b) := by simp [decodeHostWord]
    exact hsel.trans (decodeUpdate_ok.mpr (by simp))
  | chkWord k =>
    have hk : k ≠ 3 := by simpa [Instr.wf, wordIndexOk] using hwf
    have hsel : decodeHostWord (hostWord 4 0 k 0) = decodeChk (hostWord 4 0 k 0) := by simp [decodeHostWord]
    exact hsel.trans (decodeChk_ok.mpr (by simpa using hk))
  | crcInit | crcRead | snsStart | snsFetch | snsReadCo2 | snsReadTemp | snsReadHum | busStart | busRead => rfl

/-- Settles O3: the decoder's case names the selector and its part of the decoder the other fields, and a word is its
fields. -/
theorem decodedWordEncodesBack : Obligations.DecodedWordEncodesBack := by
  intro f w i h
  cases f with
  | hostop =>
    obtain ⟨hwf, hw⟩ := encode_of_decodeHostWord h
    exact ⟨hwf, Safety.formatOf_of_decode h, hw⟩
  | buscmd =>
    rcases decodeBusWord_ok.mp h with ⟨rfl, rfl⟩ | ⟨rfl, rfl⟩
    · exact ⟨rfl, rfl, rfl⟩
    · exact ⟨rfl, rfl, rfl⟩

/-- What the decoder accepts, in the encoder's terms. -/
theorem decode_ok_iff : decode f w = .ok i ↔ i.wf = true ∧ formatOf i = f ∧ encode i = w := by
  constructor
  · exact decodedWordEncodesBack f w i
  · rintro ⟨hwf, rfl, rfl⟩
    exact decodeEncodeAgree i hwf

theorem accepted_eq_none_iff {r : Except DecodeRefusal Instr} : accepted r = none ↔ ∀ i, r ≠ .ok i := by
  cases r <;> simp [accepted]

theorem accepted_isSome_iff {r : Except DecodeRefusal Instr} : (accepted r).isSome = true ↔ ∃ i, r = .ok i := by
  cases r <;> simp [accepted]

/-! ### The refusals (R53) -/

/-- The fields of a host word that decodes: one of the nine selectors, and zero where the row has no operand. -/
structure AdmittedFields (w : Word) : Prop where
  selector : opField w ≠ 0 ∧ ¬ 0xA#4 ≤ opField w
  res : resField w = 0
  index : opField w ≠ 4 → kField w = 0
  data : opField w ≠ 2 → dataField w = 0
  indexOk : opField w = 4 → kField w ≠ 3

theorem admittedFields_of_plain (hop : opField w ≠ 0 ∧ ¬ 0xA#4 ≤ opField w) (hop4 : opField w ≠ 4)
    (h : decodePlain w i = .ok j) : AdmittedFields w := by
  obtain ⟨hres, hk, hdata, -⟩ := decodePlain_ok.mp h
  exact ⟨hop, hres, fun _ => hk, fun _ => hdata, fun h4 => absurd h4 hop4⟩

theorem admittedFields_of_decode (h : decode .hostop w = .ok i) : AdmittedFields w := by
  rcases decodeHostWord_cases h with ⟨hop, h⟩ | ⟨hop, h⟩ | ⟨hop, h⟩ | ⟨hop, h⟩ | ⟨hop, h⟩ | ⟨hop, h⟩ | ⟨hop, h⟩ |
    ⟨hop, h⟩ | ⟨hop, h⟩
  case inr.inl =>
    obtain ⟨hres, hk, -⟩ := decodeUpdate_ok.mp h
    exact ⟨by rw [hop]; decide, hres, fun _ => hk, fun hne => absurd hop hne,
      fun h4 => absurd (hop.symm.trans h4) (by decide)⟩
  case inr.inr.inr.inl =>
    obtain ⟨hres, hdata, hk, -⟩ := decodeChk_ok.mp h
    exact ⟨by rw [hop]; decide, hres, fun hne => absurd hop hne, fun _ => hdata, fun _ => hk⟩
  all_goals exact admittedFields_of_plain (by rw [hop]; decide) (by rw [hop]; decide) h

/-- A word without admitted fields is refused. -/
theorem refused_of_not_admitted (h : ¬ AdmittedFields w) : accepted (decode .hostop w) = none :=
  accepted_eq_none_iff.mpr fun _ hd => h (admittedFields_of_decode hd)

/-- Settles O6: each class of R53 is a field that no decoded word has. -/
theorem reservedWordsAreRefused : Obligations.ReservedWordsAreRefused := by
  intro w
  refine ⟨fun hop => ?_, fun hres => ?_, fun hk hop => ?_, fun hdata hop => ?_, fun hop hk => ?_⟩ <;>
    refine refused_of_not_admitted fun h => ?_
  · exact hop.elim h.selector.1 h.selector.2
  · exact hres h.res
  · exact hk (h.index hop)
  · exact hdata (h.data hop)
  · exact h.indexOk hop hk

/-- Settles O7: the two bus command words have a stray index and a reserved selector. -/
theorem formatsAreDisjoint : Obligations.FormatsAreDisjoint := by
  intro w h
  obtain ⟨i, hi⟩ := accepted_isSome_iff.mp h
  rcases decodeBusWord_ok.mp hi with ⟨rfl, -⟩ | ⟨rfl, -⟩
  · exact refused_of_not_admitted fun hadm => absurd (hadm.index (by decide)) (by decide)
  · exact refused_of_not_admitted fun hadm => absurd hadm.selector.2 (by decide)

/-! ### The match and mask pairs (R50) -/

/-- A masked word, field by field. -/
theorem and_eq_iff {m v : Word} : w &&& m = v ↔
    opField w &&& opField m = opField v ∧ resField w &&& resField m = resField v ∧
    kField w &&& kField m = kField v ∧ dataField w &&& dataField m = dataField v := by
  have hand {start len : Nat} :
      (w &&& m).extractLsb' start len = w.extractLsb' start len &&& m.extractLsb' start len :=
    BitVec.extractLsb'_and
  conv_lhs => rw [← hostWord_fields v, eq_hostWord_iff]
  simp only [opField, resField, kField, dataField, hand]

/-- A row without an operand compares the whole word. -/
theorem decode_plain_iff (hwf : i.wf = true) (hf : formatOf i = .hostop) :
    decode .hostop w = .ok i ↔ w &&& 0xFFFF = encode i := by
  have hmask : w &&& 0xFFFF = w := BitVec.and_allOnes
  rw [decode_ok_iff, hmask]
  simp [hwf, hf, eq_comm]

/-- CRC.UPDATE's row leaves `data` free. -/
theorem decode_crcUpdate_iff {b : Byte} :
    decode .hostop w = .ok (.crcUpdate b) ↔ w &&& 0xFF00 = 0x2000 ∧ b = dataField w := by
  have hmask : w &&& 0xFF00 = 0x2000 ↔ opField w = 2 ∧ resField w = 0 ∧ kField w = 0 := by
    rw [and_eq_iff]
    change opField w &&& BitVec.allOnes 4 = 2 ∧ resField w &&& BitVec.allOnes 2 = 0 ∧
      kField w &&& BitVec.allOnes 2 = 0 ∧ dataField w &&& 0#8 = 0#8 ↔ _
    simp only [BitVec.and_allOnes, BitVec.and_zero, and_true]
  calc decode .hostop w = .ok (.crcUpdate b)
    _ ↔ w = hostWord 2 0 0 b := by simp [decode_ok_iff, encode_crcUpdate, Instr.wf, formatOf, eq_comm]
    _ ↔ w &&& 0xFF00 = 0x2000 ∧ b = dataField w := by simp only [eq_hostWord_iff, hmask, and_assoc, eq_comm]

/-- CHK.WORD's row leaves `k` free but for 3. -/
theorem decode_chkWord_iff {k : BitVec 2} :
    decode .hostop w = .ok (.chkWord k) ↔ w &&& 0xFCFF = 0x4000 ∧ k = kField w ∧ k ≠ 3 := by
  have hmask : w &&& 0xFCFF = 0x4000 ↔ opField w = 4 ∧ resField w = 0 ∧ dataField w = 0 := by
    rw [and_eq_iff]
    change opField w &&& BitVec.allOnes 4 = 4 ∧ resField w &&& BitVec.allOnes 2 = 0 ∧
      kField w &&& 0#2 = 0#2 ∧ dataField w &&& BitVec.allOnes 8 = 0 ↔ _
    simp only [BitVec.and_allOnes, BitVec.and_zero, true_and]
  calc decode .hostop w = .ok (.chkWord k)
    _ ↔ k ≠ 3 ∧ w = hostWord 4 0 k 0 := by
      rw [decode_ok_iff, encode_chkWord, eq_comm (b := w)]
      simp [Instr.wf, wordIndexOk, formatOf]
    _ ↔ w &&& 0xFCFF = 0x4000 ∧ k = kField w ∧ k ≠ 3 := by
      rw [eq_hostWord_iff, hmask, eq_comm (a := k)]
      tauto

/-- Settles O4: each row by its lemma, and the reserved selectors by O6. -/
theorem hostWordsMatchTheTable : Obligations.HostWordsMatchTheTable := by
  intro w
  obtain ⟨hreserved, -⟩ := reservedWordsAreRefused w
  exact ⟨decode_plain_iff rfl rfl, fun _ => decode_crcUpdate_iff, decode_plain_iff rfl rfl,
    fun _ => decode_chkWord_iff, decode_plain_iff rfl rfl, decode_plain_iff rfl rfl, decode_plain_iff rfl rfl,
    decode_plain_iff rfl rfl, decode_plain_iff rfl rfl, hreserved⟩

/-! ### The count (R52) -/

/-- The operands of the host operations, with the operations that have none: a byte, one of three indices, or one of
seven operations. -/
abbrev HostOperand := Byte ⊕ { k : BitVec 2 // wordIndexOk k = true } ⊕ { i : Instr // i ∈ plainOps }

/-- The host operation with this operand. -/
def hostOp : HostOperand → Instr := Sum.elim .crcUpdate (Sum.elim (fun k => .chkWord k) Subtype.val)

theorem card_hostOperand : Nat.card HostOperand = 256 + (3 + 7) := by
  have hbyte : Nat.card Byte = 256 :=
    (Nat.card_congr BitVec.equivFin.toEquiv).trans (Nat.card_fin 256)
  have hindex : Nat.card { k : BitVec 2 // wordIndexOk k = true } = 3 := by
    rw [Nat.card_eq_fintype_card]; rfl
  have hplain : Nat.card { i : Instr // i ∈ plainOps } = 7 := by
    rw [Nat.card_eq_fintype_card]; rfl
  rw [Nat.card_sum, Nat.card_sum, hbyte, hindex, hplain]

theorem hostOp_injective : Function.Injective hostOp := by
  have hchk : ∀ k, Instr.chkWord k ∉ plainOps := by simp [plainOps]
  have hupdate : ∀ b, Instr.crcUpdate b ∉ plainOps := by simp [plainOps]
  refine Function.Injective.sumElim (fun _ _ => Instr.crcUpdate.inj)
    (Function.Injective.sumElim (fun _ _ h => Subtype.ext (Instr.chkWord.inj h)) Subtype.val_injective ?_) ?_
  · rintro k ⟨i, hi⟩ rfl
    exact hchk k hi
  · rintro b (k | ⟨i, hi⟩) h
    · cases h
    · exact hupdate b (h ▸ hi)

/-- The host operations are exactly the well-formed instructions of their format. -/
theorem exists_hostOp_iff : (∃ x, hostOp x = i) ↔ i.wf = true ∧ formatOf i = .hostop := by
  constructor
  · rintro ⟨b | k | ⟨j, hj⟩, rfl⟩
    · exact ⟨rfl, rfl⟩
    · exact ⟨k.2, rfl⟩
    · have hall : ∀ j ∈ plainOps, j.wf = true ∧ formatOf j = .hostop := by decide
      exact hall j hj
  · rintro ⟨hwf, hf⟩
    cases i with
    | crcUpdate b => exact ⟨.inl b, rfl⟩
    | chkWord k => exact ⟨.inr (.inl ⟨k, hwf⟩), rfl⟩
    | crcInit | crcRead | snsStart | snsFetch | snsReadCo2 | snsReadTemp | snsReadHum =>
      exact ⟨.inr (.inr ⟨_, by decide⟩), rfl⟩
    | busStart | busRead => simp [formatOf] at hf

theorem decode_hostOp (x : HostOperand) : decode .hostop (encode (hostOp x)) = .ok (hostOp x) := by
  obtain ⟨hwf, hf⟩ := exists_hostOp_iff.mp ⟨x, rfl⟩
  exact decode_ok_iff.mpr ⟨hwf, hf, rfl⟩

theorem encode_hostOp_injective : Function.Injective fun x => encode (hostOp x) := by
  intro x y h
  have hok : Except.ok (ε := DecodeRefusal) (hostOp x) = .ok (hostOp y) := by
    rw [← decode_hostOp x, ← decode_hostOp y, show encode (hostOp x) = encode (hostOp y) from h]
  exact hostOp_injective (Except.ok.inj hok)

/-- The words that decode are the words of the host operations. -/
theorem accepted_words_eq_range :
    { w : Word | (accepted (decode .hostop w)).isSome = true } = Set.range fun x => encode (hostOp x) := by
  ext w
  constructor
  · intro h
    obtain ⟨i, hi⟩ := accepted_isSome_iff.mp h
    obtain ⟨hwf, hf, rfl⟩ := decode_ok_iff.mp hi
    obtain ⟨x, rfl⟩ := exists_hostOp_iff.mpr ⟨hwf, hf⟩
    exact ⟨x, rfl⟩
  · rintro ⟨x, rfl⟩
    exact accepted_isSome_iff.mpr ⟨_, decode_hostOp x⟩

/-- Settles O5: the host operations have pairwise different words, so there are as many words as operands. -/
theorem exactly266WordsDecode : Obligations.Exactly266WordsDecode := by
  show Nat.card { w : Word | (accepted (decode .hostop w)).isSome = true } = 266
  rw [accepted_words_eq_range, Nat.card_range_of_injective encode_hostOp_injective, card_hostOperand]

/-! ### Words written out -/

/-- Settles O1: each of the ten words is decoded. -/
theorem listedWordsDecode : Obligations.ListedWordsDecode :=
  ⟨rfl, rfl, rfl, rfl, rfl, rfl, rfl, rfl, rfl, rfl⟩

/-- The word of CRC.UPDATE is its match value with the byte in the low half (R50, R51). -/
theorem encode_crcUpdate_eq_or (b : Byte) : encode (.crcUpdate b) = 0x2000 ||| b.setWidth 16 := rfl

/-- Settles O8: an operation before and one after the bytes', each with the word of its row. -/
theorem computeExpansion : Obligations.ComputeExpansion := by
  intro bs
  have hbytes : (bs.map Instr.crcUpdate).map encode = bs.map fun b => 0x2000 ||| b.setWidth 16 :=
    List.map_map.trans (List.map_congr_left fun b _ => encode_crcUpdate_eq_or b)
  constructor
  · simp [Machine.expandCompute]
  · rw [Machine.expandCompute, List.map_cons, List.map_append, hbytes]
    rfl

end Sys2Proof
end

section
/-! What sending a bus command word by itself does to the state (30_encoding.md R45, R46). -/

namespace Sys2Proof.Machine

variable {s : State}

theorem busCommand_of_done (h : s.nextWrite = .done) (w : Word) :
    ((busWrite Config.devAddr w s).endState fun _ t => t) = s.drewWrite.record (.write Config.devAddr w) := by
  simp only [busWrite, h, endState_completed]

theorem busCommand_of_failed {f : Nat} (h : s.nextWrite = .failed f) (w : Word) :
    ((busWrite Config.devAddr w s).endState fun _ t => t) =
      s.drewWrite.raise (.transport (.reported f) Config.devAddr (.write w)) := by
  simp only [busWrite, h, endState_failed]

/-- A bus command's row sends the row's own word. -/
theorem exec_busCommand {p : Instr × Word} (hp : p ∈ [(Instr.busStart, (0x21B1 : Word)), (.busRead, 0xEC05)])
    (s : State) : exec p.1 s = .next ((busWrite Config.devAddr p.2 s).endState fun _ t => t) := by
  simp only [List.mem_cons, List.not_mem_nil, or_false] at hp
  rcases hp with rfl | rfl <;> rfl

/-- Settles O51: both rows send their word, and the write is recorded or raises its fault. -/
theorem busCommandsAreOneWrite : Obligations.BusCommandsAreOneWrite := by
  intro p hp s
  refine ⟨fun hdone => ?_, fun f hfailed => ?_⟩
  · rw [exec_busCommand hp, busCommand_of_done hdone]
    rfl
  · rw [exec_busCommand hp, busCommand_of_failed hfailed]
    rfl

end Sys2Proof.Machine
end

section
/-! The engine's functions as maps on bytes: injective, additive over XOR, and what that says of the table, of the
effect of a difference pattern and of the check (40_crc_engine.md R59-R63, R69; 41_response_parser.md R77). -/

namespace Sys2Proof.Machine

variable {a b : Byte}

/-! ### The bit step and the byte step (40_crc_engine.md R59, R60) -/

theorem crcBits_eq_iterate (n : Nat) : crcBits n = crcBit^[n] := by
  induction n with
  | zero => rfl
  | succ n ih => rw [Function.iterate_succ, ← ih]; rfl

@[simp] theorem crcByte_self (a : Byte) : crcByte a a = 0 := by
  simp [crcByte]

theorem crcByte_zero_left (b : Byte) : crcByte 0 b = crcBits 8 b := by
  simp [crcByte]

theorem crcByte_eq_crcByte_zero (a b : Byte) : crcByte a b = crcByte 0 (a ^^^ b) :=
  (crcByte_zero_left (a ^^^ b)).symm

/-- The polynomial's bit 0 shows a bit 7 that was shifted out, so no byte but 0x00 is shifted to 0x00. -/
theorem eq_zero_of_crcBit_eq_zero (h : crcBit a = 0#8) : a = 0#8 := by
  have hbit (i : Nat) : (crcBit a).getLsbD i = false := by rw [h, BitVec.getLsbD_zero]
  cases hseven : a.getLsbD 7 with
  | true =>
    have hzero := hbit 0
    rw [crcBit, if_pos hseven] at hzero
    simp [Config.crcPoly] at hzero
  | false =>
    have hshift : crcBit a = a <<< 1 := by rw [crcBit, hseven]; rfl
    refine BitVec.eq_of_getLsbD_eq fun i hi => ?_
    rw [BitVec.getLsbD_zero]
    rcases Nat.lt_succ_iff_lt_or_eq.mp hi with hlt | rfl
    · simpa [hshift, hi, Nat.succ_lt_succ hlt] using hbit (i + 1)
    · exact hseven

/-- An additive map that sends only 0x00 to 0x00 is injective. -/
theorem crcBit_injective : Function.Injective crcBit := fun a b h =>
  BitVec.xor_eq_zero_iff.mp (eq_zero_of_crcBit_eq_zero (by rw [crcBit_xor, h, BitVec.xor_self]))

theorem crcBits_injective (n : Nat) : Function.Injective (crcBits n) := by
  rw [crcBits_eq_iterate]
  exact crcBit_injective.iterate n

theorem crcByte_injective (a : Byte) : Function.Injective (crcByte a) :=
  fun _ _ h => BitVec.xor_right_inj a |>.mp (crcBits_injective 8 h)

/-- The remainder becomes 0x00 exactly on the byte it equals. -/
theorem crcByte_eq_zero_iff : crcByte a b = 0 ↔ a = b := by
  rw [← crcByte_self a, eq_comm, (crcByte_injective a).eq_iff]

/-- Settles O17: dropping bit 8 of the 9-bit intermediate is the 8-bit shift, and eight bit steps are an iterate. -/
theorem crcStepIsTheNineBitShift : Obligations.CrcStepIsTheNineBitShift := by
  refine ⟨fun a => ?_, crcBit_eq, rfl, rfl, rfl, fun a b => ?_, crcByte_self, rfl⟩
  · have hshift : (a.setWidth 9 <<< 1).setWidth 8 = a <<< 1 := by
      rw [BitVec.setWidth_shiftLeft_of_le (by decide), BitVec.setWidth_setWidth_of_le _ (by decide),
        BitVec.setWidth_eq]
    rw [crcBit_eq, BitVec.setWidth_xor, hshift]
    cases a.getLsbD 7 <;> rfl
  · rw [crcByte, crcBits_eq_iterate]

/-! ### The table (40_crc_engine.md R62) -/

/-- Entry x of the printed table is the byte step of x from 0x00; the 256 entries are compared one by one. -/
theorem crcTable_getElem? : ∀ x : Byte, Safety.crcTable[x.toNat]? = some (crcByte 0 x) := by
  decide +kernel

theorem crcByte_bijective (a : Byte) : Function.Bijective (crcByte a) :=
  Finite.injective_iff_bijective.mp (crcByte_injective a)

/-- Settles O18: the table is compared entry by entry, and the byte step is injective on the finite set of bytes. -/
theorem crcTableAndBijection : Obligations.CrcTableAndBijection := by
  refine ⟨fun a b => ?_, crcTable_getElem?, crcByte_bijective 0, crcByte_bijective, by decide +kernel,
    by decide +kernel⟩
  rw [crcTable_getElem?, ← crcByte_eq_crcByte_zero]

/-- Settles O24: 0xEF is the one byte beside 0x00 at its own place in the table; the 256 bytes are tried. -/
theorem zeroByteFixedPoints : Obligations.ZeroByteFixedPoints := by
  unfold Obligations.ZeroByteFixedPoints
  decide +kernel

/-- Refutes O25: the zero byte leaves 0xEF alone (log 15). -/
theorem not_zeroByteChangesEveryNonzeroAcc : ¬ Obligations.ZeroByteChangesEveryNonzeroAcc := by
  intro h
  exact h 0xEF (by decide) (by decide)

/-! ### The effect of a difference pattern (40_crc_engine.md R69) -/

theorem crcByte_xor (a b c d : Byte) : crcByte (a ^^^ b) (c ^^^ d) = crcByte a c ^^^ crcByte b d := by
  rw [crcByte, crcByte, crcByte, ← crcBits_xor]
  congr 1
  ac_rfl

/-- Folding is additive over XOR in the accumulator and the sequence together. -/
theorem crcFrom_xor {s t : List Byte} (h : s.length = t.length) (a b : Byte) :
    crcFrom (a ^^^ b) (List.zipWith (· ^^^ ·) s t) = crcFrom a s ^^^ crcFrom b t := by
  induction s generalizing t a b with
  | nil =>
    obtain rfl : t = [] := List.eq_nil_of_length_eq_zero h.symm
    rfl
  | cons x s ih =>
    obtain ⟨y, t, rfl⟩ : ∃ y u, t = y :: u := List.exists_cons_of_length_eq_add_one h.symm
    simp only [List.zipWith_cons_cons, crcFrom_cons, crcByte_xor]
    exact ih (Nat.succ.inj h) _ _

/-- A difference pattern changes the checksum by its own remainder, whatever the sequence. -/
theorem crc8_xor {s e : List Byte} (h : s.length = e.length) :
    crc8 (List.zipWith (· ^^^ ·) s e) = crc8 s ^^^ crcFrom 0#8 e := by
  rw [crc8, crc8, ← crcFrom_xor h, BitVec.xor_zero]

theorem zipWith_replicate_zero_xor (t : List Byte) :
    List.zipWith (· ^^^ ·) (List.replicate t.length 0) t = t := by
  induction t with
  | nil => rfl
  | cons b t ih => simpa [List.replicate_succ] using ih

/-- The checksum is that of as many zero bytes, changed by the sequence's remainder. -/
theorem crc8_eq_xor (t : List Byte) : crc8 t = crc8 (List.replicate t.length 0) ^^^ crcFrom 0#8 t := by
  rw [← crc8_xor List.length_replicate, zipWith_replicate_zero_xor]

/-- Settles O20: in both parts the checksum of the sum is changed by the remainder of the second summand alone. -/
theorem crcIsAffine : Obligations.CrcIsAffine := by
  refine ⟨fun s t h => ?_, fun s t e hs ht => ?_⟩
  · have hzeros : crc8 t ^^^ crc8 (List.replicate s.length 0) = crcFrom 0#8 t := by
      rw [crc8_eq_xor t, h, BitVec.xor_comm, ← BitVec.xor_assoc, BitVec.xor_self, BitVec.zero_xor]
    rw [crc8_xor h, BitVec.xor_assoc, hzeros]
  · rw [crc8_xor hs, crc8_xor ht, ← BitVec.xor_assoc, ← BitVec.xor_assoc, BitVec.xor_self, BitVec.xor_self]

/-! ### The residue form of the check (41_response_parser.md R77) -/

theorem crc8_append_singleton (s : List Byte) (c : Byte) : crc8 (s ++ [c]) = crcByte (crc8 s) c :=
  crcFrom_append _ s [c]

theorem check_iff_residue (hi lo c : Byte) : check hi lo c = true ↔ crc8 [hi, lo, c] = 0 := by
  rw [check_iff, ← crcByte_eq_zero_iff, ← crc8_append_singleton]
  rfl

/-- Settles O32: the checksum byte takes the accumulator, which is the checksum, to 0x00, and no other byte does. -/
theorem residueForm : Obligations.ResidueForm :=
  ⟨fun hi lo => (check_iff_residue hi lo _).mp ((check_iff hi lo _).mpr rfl), check_iff_residue⟩

end Sys2Proof.Machine
end

section
/-! The engine's operations from an `acc` with or without a value, and CRC.COMPUTE as the sequence of them
(40_crc_engine.md R64-R68). -/

namespace Sys2Proof.Safety

open Sys2Proof.Machine

variable {i : Instr} {is : List Instr} {s t : State}

/-! ### One operation (40_crc_engine.md R64-R66) -/

theorem exec_crcInit (s : State) : exec .crcInit s = .next ((s.setAcc Config.crcInit).complete .empty) := rfl

theorem exec_crcUpdate_of_acc {a : Byte} (h : s.acc = some a) (b : Byte) :
    exec (.crcUpdate b) s = .next ((s.setAcc (crcByte a b)).complete .empty) := by
  simp only [exec, execCrcUpdate, h]

theorem exec_crcUpdate_of_no_acc (h : s.acc = none) (b : Byte) :
    exec (.crcUpdate b) s = .next (s.raise (.accUninitialised .update)) := by
  simp only [exec, execCrcUpdate, h]

theorem exec_crcRead_of_acc {a : Byte} (h : s.acc = some a) : exec .crcRead s = .next (s.complete (.byte a)) := by
  simp only [exec, execCrcRead, h]

theorem exec_crcRead_of_no_acc (h : s.acc = none) :
    exec .crcRead s = .next (s.raise (.accUninitialised .read)) := by
  simp only [exec, execCrcRead, h]

/-- Settles O21: CRC.INIT looks at nothing. -/
theorem crcInitCompletes : Obligations.CrcInitCompletes :=
  ⟨rfl, exec_crcInit⟩

/-- Settles O22: the two values `acc` can have are the two paths, and the byte step is eight bit steps. -/
theorem crcUpdateFoldsItsByte : Obligations.CrcUpdateFoldsItsByte := by
  refine ⟨encode_crcUpdate_eq_or, fun s a b h => ?_, fun s b h => exec_crcUpdate_of_no_acc h b⟩
  rw [exec_crcUpdate_of_acc h, crcByte, crcBits_eq_iterate]
  rfl

/-- Settles O23: the two values `acc` can have are the two paths. -/
theorem crcReadReturnsAcc : Obligations.CrcReadReturnsAcc :=
  ⟨rfl, fun _ _ h => exec_crcRead_of_acc h, fun _ h => exec_crcRead_of_no_acc h⟩

/-! ### CRC.COMPUTE (40_crc_engine.md R67, R68) -/

/-- An operation that leaves the block running hands over to the next. -/
theorem execSeq_cons_of_next (h : exec i s = .next t) (ht : running t = true) :
    execSeq (i :: is) s = execSeq is t := by
  simp only [execSeq, h, ht, if_true]

/-- A running block after CRC.UPDATEs from the accumulator a: the bytes are folded in, with an empty output and one
pc each. -/
def afterUpdates (s : State) (a : Byte) (bs : List Byte) : State :=
  { s with acc := some (crcFrom a bs), outputs := s.outputs ++ List.replicate bs.length .empty,
           pc := s.pc + bs.length }

theorem afterUpdates_nil {a : Byte} (h : s.acc = some a) : afterUpdates s a [] = s := by
  simp [afterUpdates, ← h]

/-- The first byte, then the others. -/
theorem afterUpdates_cons (s : State) (a b : Byte) (bs : List Byte) :
    afterUpdates s a (b :: bs) = afterUpdates ((s.setAcc (crcByte a b)).complete .empty) (crcByte a b) bs := by
  simp [afterUpdates, State.setAcc, State.complete, List.replicate_succ, Nat.add_comm 1, Nat.add_assoc]

/-- CRC.UPDATEs one after another fold their bytes in, and CRC.READ after them returns the accumulator. -/
theorem execSeq_updates_read {a : Byte} (bs : List Byte) (hs : running s = true) (ha : s.acc = some a) :
    execSeq (bs.map .crcUpdate ++ [.crcRead]) s = .next ((afterUpdates s a bs).complete (.byte (crcFrom a bs))) := by
  induction bs generalizing s a with
  | nil =>
    rw [afterUpdates_nil ha]
    exact execSeq_cons_of_next (exec_crcRead_of_acc ha) hs
  | cons b bs ih =>
    rw [List.map_cons, List.cons_append, execSeq_cons_of_next (exec_crcUpdate_of_acc ha b) hs, afterUpdates_cons]
    exact ih hs rfl

/-- Settles O26: CRC.INIT gives `acc` its value, the CRC.UPDATEs fold the bytes in, and CRC.READ returns it. -/
theorem computeReturnsCrc8 : Obligations.ComputeReturnsCrc8 := by
  intro bs s hs
  have hinit : running ((s.setAcc Config.crcInit).complete .empty) = true := hs
  rw [expandCompute, execSeq_cons_of_next (exec_crcInit s) hs, execSeq_updates_read bs hinit rfl]
  simp [afterUpdates, State.complete, State.setAcc, crc8, List.replicate_succ, Nat.add_comm 1, Nat.add_assoc]

/-- Settles O27: both runs complete by O26, and what they return last is the checksum of the bytes. -/
theorem computeIsDeterministic : Obligations.ComputeIsDeterministic := by
  intro bs s t hs ht
  exact ⟨_, _, crc8 bs, computeReturnsCrc8 bs s hs, computeReturnsCrc8 bs t ht, by simp, by simp⟩

end Sys2Proof.Safety
end

section
/-! Bit vectors as polynomials over GF(2): the engine computes remainders modulo g (40_crc_engine.md R61). -/

namespace Sys2Proof.Safety

open Sys2Proof.Machine Polynomial

variable {w : Nat}

/-! ### The polynomial of a bit vector -/

/-- The bit vector v read as Σ v[i] x^i. -/
noncomputable def bitPoly (v : BitVec w) : (ZMod 2)[X] :=
  ∑ i ∈ Finset.range w, if v.getLsbD i then X ^ i else 0

theorem coeff_bitPoly (v : BitVec w) (i : Nat) : (bitPoly v).coeff i = if v.getLsbD i then 1 else 0 := by
  have hterm (j : Nat) : (if v.getLsbD j then (X : (ZMod 2)[X]) ^ j else 0).coeff i =
      if i = j then (if v.getLsbD i then 1 else 0) else 0 := by
    by_cases hij : i = j
    · subst hij
      by_cases hv : v.getLsbD i <;> simp [hv]
    · by_cases hv : v.getLsbD j <;> simp [hv, hij, coeff_X_pow]
  simp only [bitPoly, finsetSum_coeff, hterm, Finset.sum_ite_eq, Finset.mem_range]
  by_cases hi : i < w
  · simp [hi]
  · simp [hi, BitVec.getLsbD_of_ge v i (Nat.le_of_not_lt hi)]

theorem bitPoly_injective : Function.Injective (bitPoly : BitVec w → (ZMod 2)[X]) := by
  intro u v h
  refine BitVec.eq_of_getLsbD_eq fun i _ => ?_
  have hcoeff : (bitPoly u).coeff i = (bitPoly v).coeff i := by rw [h]
  rw [coeff_bitPoly, coeff_bitPoly] at hcoeff
  cases hu : u.getLsbD i <;> cases hv : v.getLsbD i <;> simp [hu, hv] at hcoeff ⊢

theorem bitPoly_xor (u v : BitVec w) : bitPoly (u ^^^ v) = bitPoly u + bitPoly v := by
  ext i
  rw [coeff_add, coeff_bitPoly, coeff_bitPoly, coeff_bitPoly, BitVec.getLsbD_xor]
  cases u.getLsbD i <;> cases v.getLsbD i <;> rfl

theorem bitPoly_append {m n : Nat} (u : BitVec m) (v : BitVec n) :
    bitPoly (u ++ v) = bitPoly u * X ^ n + bitPoly v := by
  ext i
  rw [coeff_add, coeff_mul_X_pow', coeff_bitPoly, coeff_bitPoly, coeff_bitPoly, BitVec.getLsbD_append]
  by_cases hi : i < n
  · simp [hi]
  · simp [hi, Nat.le_of_not_lt hi]

@[simp] theorem bitPoly_zero : bitPoly (0#w) = 0 := by
  simp [bitPoly]

theorem degree_bitPoly_lt (v : BitVec w) : (bitPoly v).degree < w :=
  (degree_lt_iff_coeff_zero _ _).mpr fun i hi => by
    rw [coeff_bitPoly, BitVec.getLsbD_of_ge v i hi]
    rfl

/-! ### Bytes are eight bits -/

theorem bytePoly_eq_bitPoly (a : Byte) : bytePoly a = bitPoly a := rfl

theorem bytePoly_xor (a b : Byte) : bytePoly (a ^^^ b) = bytePoly a + bytePoly b := bitPoly_xor a b

@[simp] theorem bytePoly_zero : bytePoly 0#8 = 0 := bitPoly_zero

/-! ### The generator -/

theorem generator_monic : generator.Monic := by
  unfold generator
  monicity!

theorem degree_generator : generator.degree = 8 := by
  unfold generator
  compute_degree!

theorem degree_bytePoly_lt (a : Byte) : (bytePoly a).degree < generator.degree := by
  rw [degree_generator]
  exact degree_bitPoly_lt a

/-- A byte's polynomial is the remainder of whatever it differs from by a multiple of g. -/
theorem bytePoly_eq_mod {a : Byte} {p : (ZMod 2)[X]} (h : generator ∣ p - bytePoly a) :
    bytePoly a = p %ₘ generator := by
  rw [modByMonic_eq_of_dvd_sub generator_monic h,
    (modByMonic_eq_self_iff generator_monic).mpr (degree_bytePoly_lt a)]

/-- Of the bytes, g divides only 0x00. -/
theorem eq_zero_of_generator_dvd {a : Byte} (h : generator ∣ bytePoly a) : a = 0#8 :=
  bitPoly_injective ((eq_zero_of_dvd_of_degree_lt h (degree_bytePoly_lt a)).trans bytePoly_zero.symm)

/-! ### The engine's functions (40_crc_engine.md R61) -/

/-- A left shift multiplies by x, but for the bit it drops. -/
theorem X_mul_bytePoly (a : Byte) :
    X * bytePoly a = bytePoly (a <<< 1) + if a.getLsbD 7 then X ^ 8 else 0 := by
  rw [bytePoly, bytePoly, Finset.sum_range_succ, Finset.sum_range_succ' _ 7, mul_add, Finset.mul_sum]
  have hterm : ∀ i ∈ Finset.range 7, (X : (ZMod 2)[X]) * (if a.getLsbD i then X ^ i else 0) =
      if (a <<< 1).getLsbD (i + 1) then X ^ (i + 1) else 0 := by
    intro i hi
    have hlt : i < 7 := Finset.mem_range.mp hi
    have hbit : (a <<< 1).getLsbD (i + 1) = a.getLsbD i := by
      simp [Nat.succ_lt_succ hlt, Nat.lt_succ_of_lt hlt]
    rw [hbit, mul_ite, mul_zero, pow_succ']
  rw [Finset.sum_congr rfl hterm]
  simp [mul_ite, ← pow_succ']

/-- The polynomial constant 0x31 is g without its leading term. -/
theorem generator_eq : generator = X ^ 8 + bytePoly Config.crcPoly := by
  have hpoly : bytePoly Config.crcPoly = 1 + X ^ 4 + X ^ 5 := by
    simp [bytePoly, Finset.sum_range_succ, Config.crcPoly]
  rw [generator, hpoly]
  ring

/-- A bit step multiplies by x and subtracts g where the product has degree 8. -/
theorem generator_dvd_crcBit (a : Byte) : generator ∣ X * bytePoly a - bytePoly (crcBit a) := by
  have hbit : bytePoly (crcBit a) = bytePoly (a <<< 1) + if a.getLsbD 7 then bytePoly Config.crcPoly else 0 := by
    rw [crcBit_eq, bytePoly_xor, apply_ite bytePoly]
    exact congrArg _ (if_congr Iff.rfl rfl bytePoly_zero)
  rw [X_mul_bytePoly, hbit, add_sub_add_left_eq_sub, CharTwo.sub_eq_add]
  cases a.getLsbD 7 with
  | false => simp
  | true => simp [generator_eq]

theorem generator_dvd_crcBits (n : Nat) (a : Byte) : generator ∣ X ^ n * bytePoly a - bytePoly (crcBits n a) := by
  induction n generalizing a with
  | zero => simp
  | succ n ih =>
    have hsplit : X ^ (n + 1) * bytePoly a - bytePoly (crcBits (n + 1) a) =
        X ^ n * (X * bytePoly a - bytePoly (crcBit a)) +
          (X ^ n * bytePoly (crcBit a) - bytePoly (crcBits n (crcBit a))) := by
      rw [crcBits_succ]
      ring
    rw [hsplit]
    exact dvd_add (Dvd.dvd.mul_left (generator_dvd_crcBit a) _) (ih _)

theorem generator_dvd_crcByte (a b : Byte) :
    generator ∣ X ^ 8 * (bytePoly a + bytePoly b) - bytePoly (crcByte a b) := by
  rw [← bytePoly_xor]
  exact generator_dvd_crcBits 8 (a ^^^ b)

/-- Folding a sequence is long division of the accumulator followed by the sequence. -/
theorem generator_dvd_crcFrom (a : Byte) (s : List Byte) :
    generator ∣ X ^ (8 * s.length) * bytePoly a + X ^ 8 * seqPoly s - bytePoly (crcFrom a s) := by
  induction s generalizing a with
  | nil => simp [seqPoly]
  | cons b s ih =>
    have hsplit : X ^ (8 * (b :: s).length) * bytePoly a + X ^ 8 * seqPoly (b :: s) - bytePoly (crcFrom a (b :: s)) =
        X ^ (8 * s.length) * (X ^ 8 * (bytePoly a + bytePoly b) - bytePoly (crcByte a b)) +
          (X ^ (8 * s.length) * bytePoly (crcByte a b) + X ^ 8 * seqPoly s -
            bytePoly (crcFrom (crcByte a b) s)) := by
      rw [crcFrom_cons, seqPoly, List.length_cons]
      ring
    rw [hsplit]
    exact dvd_add (Dvd.dvd.mul_left (generator_dvd_crcByte a b) _) (ih _)

/-- Settles O19: each value is a byte, and differs from what it is the remainder of by a multiple of g. -/
theorem crcIsPolynomialDivision : Obligations.CrcIsPolynomialDivision :=
  ⟨fun a => bytePoly_eq_mod (generator_dvd_crcBit a), fun a b => bytePoly_eq_mod (generator_dvd_crcByte a b),
    fun s => bytePoly_eq_mod (generator_dvd_crcFrom _ s)⟩

end Sys2Proof.Safety
end

section
/-! The check on 24-bit triples: it misses an error exactly if g divides the error's polynomial
(41_response_parser.md R78), and it accepts one checksum byte per word (R79). -/

namespace Sys2Proof.Safety

open Sys2Proof.Machine Polynomial

variable {t e : BitVec 24} {i j : Nat}

/-! ### Triples as byte sequences and as polynomials -/

/-- The bytes of a triple in the order in which the check folds them. -/
def tripleBytes (e : BitVec 24) : List Byte := [tripleHi e, tripleLo e, tripleCrc e]

theorem tripleBytes_xor (t e : BitVec 24) :
    tripleBytes (t ^^^ e) = List.zipWith (· ^^^ ·) (tripleBytes t) (tripleBytes e) := by
  simp [tripleBytes, tripleHi, tripleLo, tripleCrc, BitVec.extractLsb'_xor]

theorem checkTriple_iff : checkTriple t = true ↔ crc8 (tripleBytes t) = 0 :=
  check_iff_residue _ _ _

/-- The triple of three bytes, the high byte of the word first. -/
def triple (hi lo c : Byte) : BitVec 24 := hi ++ lo ++ c

theorem triple_tripleBytes (e : BitVec 24) : triple (tripleHi e) (tripleLo e) (tripleCrc e) = e := calc
  triple (tripleHi e) (tripleLo e) (tripleCrc e)
  _ = e.extractLsb' 8 16 ++ e.extractLsb' 0 8 :=
    congrArg (· ++ e.extractLsb' 0 8) (BitVec.extractLsb'_append_extractLsb'_eq_extractLsb' rfl)
  _ = e.extractLsb' 0 24 := BitVec.extractLsb'_append_extractLsb'_eq_extractLsb' rfl
  _ = e := BitVec.extractLsb'_eq_self

theorem seqPoly_tripleBytes (e : BitVec 24) : seqPoly (tripleBytes e) = bitPoly e := by
  have happend (hi lo c : Byte) : seqPoly [hi, lo, c] = bitPoly (triple hi lo c) := by
    rw [triple, bitPoly_append, bitPoly_append]
    simp only [seqPoly, bytePoly_eq_bitPoly, List.length_cons, List.length_nil]
    ring
  rw [tripleBytes, happend, triple_tripleBytes]

/-! ### Which errors are missed -/

theorem isCoprime_generator_X : IsCoprime generator X :=
  ⟨1, -(X ^ 7 + X ^ 4 + X ^ 3), by rw [generator]; ring⟩

theorem generator_dvd_X_pow_mul {n : Nat} {p : (ZMod 2)[X]} : generator ∣ X ^ n * p ↔ generator ∣ p :=
  ⟨isCoprime_generator_X.pow_right.dvd_of_dvd_mul_left, fun h => h.mul_left _⟩

/-- Without an initial value the remainder of a sequence is 0x00 exactly on the multiples of g. -/
theorem crcFrom_zero_eq_zero_iff {s : List Byte} : crcFrom 0#8 s = 0#8 ↔ generator ∣ seqPoly s := by
  have hdvd : generator ∣ X ^ 8 * seqPoly s - bytePoly (crcFrom 0#8 s) := by
    simpa using generator_dvd_crcFrom 0#8 s
  rw [← generator_dvd_X_pow_mul (n := 8)]
  constructor
  · intro h
    simpa [h] using hdvd
  · intro h
    exact eq_zero_of_generator_dvd ((dvd_sub_right h).mp hdvd)

/-- An error on a valid triple is missed exactly if g divides its polynomial, whichever the triple. -/
theorem checkTriple_xor_iff (ht : checkTriple t = true) :
    checkTriple (t ^^^ e) = true ↔ generator ∣ bitPoly e := by
  have hlength : (tripleBytes t).length = (tripleBytes e).length := rfl
  rw [checkTriple_iff] at ht
  rw [checkTriple_iff, tripleBytes_xor, crc8_xor hlength, ht, ← seqPoly_tripleBytes, ← crcFrom_zero_eq_zero_iff]
  exact iff_of_eq (congrArg (· = 0#8) BitVec.zero_xor)

/-! ### Errors by their set bits -/

/-- The positions of the set bits. -/
def setBits (e : BitVec 24) : Finset Nat := (Finset.range 24).filter fun i => e.getLsbD i = true

theorem weight_eq_card (e : BitVec 24) : weight e = (setBits e).card := by
  simp [weight, setBits, Finset.card, Finset.filter, Finset.range, Multiset.range]

theorem bitPoly_eq_sum_setBits (e : BitVec 24) : bitPoly e = ∑ i ∈ setBits e, X ^ i :=
  (Finset.sum_filter _ _).symm

theorem setBits_lt (h : i ∈ setBits e) : i < 24 :=
  Finset.mem_range.mp (Finset.mem_filter.mp h).1

theorem eq_zero_of_bitPoly_eq_zero (h : bitPoly e = 0) : e = 0#24 :=
  bitPoly_injective (h.trans bitPoly_zero.symm)

theorem eq_zero_of_weight_eq_zero (h : weight e = 0) : e = 0#24 := by
  rw [weight_eq_card, Finset.card_eq_zero] at h
  exact eq_zero_of_bitPoly_eq_zero (by rw [bitPoly_eq_sum_setBits, h, Finset.sum_empty])

/-- A missed error has an even weight, as x + 1 divides g. -/
theorem even_weight_of_generator_dvd (h : generator ∣ bitPoly e) : Even (weight e) := by
  have hgen : eval 1 generator = 0 := by
    simp only [generator, eval_add, eval_pow, eval_X, eval_one, one_pow]
    decide
  have heval : (weight e : ZMod 2) = eval 1 (bitPoly e) := by
    simp [weight_eq_card, bitPoly_eq_sum_setBits, eval_finsetSum]
  rw [← ZMod.natCast_eq_zero_iff_even, heval]
  exact eval_eq_zero_of_dvd_of_eval_eq_zero h hgen

/-- The powers of x below x^24 differ modulo g: 0x01 does not recur within 23 bit steps. -/
theorem not_generator_dvd_one_add_X_pow {d : Nat} (hpos : 0 < d) (hd : d < 24) : ¬ generator ∣ 1 + X ^ d := by
  intro h
  have hone : bytePoly 1#8 = 1 := by simp [bytePoly]
  have hbits : generator ∣ X ^ d - bytePoly (crcBits d 1#8) := by
    simpa [hone] using generator_dvd_crcBits d 1#8
  have hrecurs : 1#8 ^^^ crcBits d 1#8 = 0#8 := by
    refine eq_zero_of_generator_dvd ?_
    have hsplit : bytePoly (1#8 ^^^ crcBits d 1#8) = 1 + X ^ d - (X ^ d - bytePoly (crcBits d 1#8)) := by
      rw [bytePoly_xor, hone]
      ring
    rw [hsplit]
    exact dvd_sub h hbits
  have hall : ∀ d < 24, 0 < d → 1#8 ^^^ crcBits d 1#8 ≠ 0#8 := by decide +kernel
  exact hall d hd hpos hrecurs

theorem not_generator_dvd_X_pow_add_X_pow (hij : i < j) (hj : j < 24) : ¬ generator ∣ X ^ i + X ^ j := by
  have hsplit : (X : (ZMod 2)[X]) ^ i + X ^ j = X ^ i * (1 + X ^ (j - i)) := by
    rw [mul_add, mul_one, ← pow_add, Nat.add_sub_cancel' hij.le]
  rw [hsplit, generator_dvd_X_pow_mul]
  exact not_generator_dvd_one_add_X_pow (by omega) (by omega)

theorem weight_ne_two_of_generator_dvd (h : generator ∣ bitPoly e) : weight e ≠ 2 := by
  intro hw
  rw [weight_eq_card] at hw
  obtain ⟨i, j, hne, hset⟩ := Finset.card_eq_two.mp hw
  rw [bitPoly_eq_sum_setBits, hset, Finset.sum_pair hne] at h
  have hi : i < 24 := setBits_lt (e := e) (by simp [hset])
  have hj : j < 24 := setBits_lt (e := e) (by simp [hset])
  rcases Nat.lt_or_gt_of_ne hne with hlt | hgt
  · exact not_generator_dvd_X_pow_add_X_pow hlt hj h
  · exact not_generator_dvd_X_pow_add_X_pow hgt hi (by rwa [add_comm])

/-- A burst is a byte times a power of x. -/
theorem bitPoly_of_burst {p : Nat} (h : ∀ i, e.getLsbD i = true → p ≤ i ∧ i < p + 8) :
    bitPoly e = X ^ p * bytePoly (e.extractLsb' p 8) := by
  ext i
  rw [coeff_X_pow_mul', bytePoly_eq_bitPoly, coeff_bitPoly, coeff_bitPoly, BitVec.getLsbD_extractLsb']
  cases hi : e.getLsbD i with
  | true =>
    obtain ⟨hle, hlt⟩ := h i hi
    simp [hle, hi, Nat.sub_lt_left_of_lt_add hle hlt]
  | false =>
    by_cases hle : p ≤ i
    · simp [hle, hi]
    · simp [hle]

/-- No missed error but none at all lies within 8 positions, as g divides no byte but 0x00. -/
theorem eq_zero_of_burst (hburst : withinBurst e) (h : generator ∣ bitPoly e) : e = 0#24 := by
  obtain ⟨p, hp⟩ := hburst
  have hpoly := bitPoly_of_burst hp
  rw [hpoly, generator_dvd_X_pow_mul] at h
  exact eq_zero_of_bitPoly_eq_zero (by rw [hpoly, eq_zero_of_generator_dvd h, bytePoly_zero, mul_zero])

/-- Settles O33: a missed error is a multiple of g, so it has an even weight other than 2 and is no burst; g itself is
one, of weight 4. -/
theorem errorDetection : Obligations.ErrorDetection := by
  refine ⟨fun t e ht hne hkind => ?_, fun t u e ht hu => ?_, 0x01904C, 0x131, by decide +kernel, by decide,
    by decide +kernel⟩
  · rw [← Bool.not_eq_true, checkTriple_xor_iff ht]
    intro hdvd
    have heven : weight e % 2 = 0 := Nat.even_iff.mp (even_weight_of_generator_dvd hdvd)
    have htwo : weight e ≠ 2 := weight_ne_two_of_generator_dvd hdvd
    have hzero : weight e ≠ 0 := fun h => hne (eq_zero_of_weight_eq_zero h)
    rcases hkind with hle | hodd | hburst
    · omega
    · omega
    · exact hne (eq_zero_of_burst hburst hdvd)
  · rw [Bool.eq_iff_iff, checkTriple_xor_iff ht, checkTriple_xor_iff hu]

/-! ### One checksum byte per word -/

@[simp] theorem tripleCrc_triple (hi lo c : Byte) : tripleCrc (triple hi lo c) = c :=
  BitVec.extractLsb'_append_eq_right

@[simp] theorem tripleLo_triple (hi lo c : Byte) : tripleLo (triple hi lo c) = lo :=
  (BitVec.extractLsb'_append_eq_of_le (Nat.le_refl 8)).trans BitVec.extractLsb'_append_eq_right

@[simp] theorem tripleHi_triple (hi lo c : Byte) : tripleHi (triple hi lo c) = hi :=
  (BitVec.extractLsb'_append_eq_of_le (by decide)).trans BitVec.extractLsb'_append_eq_left

theorem checkTriple_triple (hi lo c : Byte) : checkTriple (triple hi lo c) = check hi lo c := by
  rw [checkTriple, tripleHi_triple, tripleLo_triple, tripleCrc_triple]

/-- A valid triple is its word, with the word's checksum behind it. -/
def validTripleEquiv : { e : BitVec 24 // checkTriple e = true } ≃ Byte × Byte where
  toFun e := (tripleHi e, tripleLo e)
  invFun p := ⟨triple p.1 p.2 (crc8 [p.1, p.2]), (checkTriple_triple ..).trans ((check_iff ..).mpr rfl)⟩
  left_inv := by
    rintro ⟨e, he⟩
    have hcrc : crc8 [tripleHi e, tripleLo e] = tripleCrc e := (check_iff ..).mp he
    refine Subtype.ext ?_
    show triple (tripleHi e) (tripleLo e) (crc8 [tripleHi e, tripleLo e]) = e
    rw [hcrc, triple_tripleBytes]
  right_inv p := by simp

theorem card_byte : Nat.card Byte = 256 :=
  (Nat.card_congr BitVec.equivFin.toEquiv).trans (Nat.card_fin 256)

/-- Settles O34: the valid triples are as many as the pairs of bytes. -/
theorem validatorAcceptsOneChecksum : Obligations.ValidatorAcceptsOneChecksum := by
  refine ⟨fun hi lo c => (check_iff hi lo c).trans eq_comm, ?_, by decide +kernel, by decide +kernel,
    by decide +kernel, by decide +kernel⟩
  rw [Nat.card_congr validTripleEquiv, Nat.card_prod, card_byte]
  rfl

end Sys2Proof.Safety
end

section
/-! The parser on the bytes of one word: how CHK.WORD and the reads of the sensor end once those are known, and that
they look at no others (41_response_parser.md R75, R76; 42_sensor_transactions.md R92-R94). -/

namespace Sys2Proof.Machine

variable {s t : State} {k : BitVec 2} {raw : Word} {v : Bool} {bs : List Byte}

/-! ### The index of a word, its raw value and its validity (41_response_parser.md R71-R73) -/

theorem wordIndexOk_iff : wordIndexOk k = true ↔ k ≠ 3 := bne_iff_ne

theorem toNat_lt_three_of_wordIndexOk (hk : wordIndexOk k = true) : k.toNat < 3 := by
  have hall : ∀ k : BitVec 2, wordIndexOk k = true → k.toNat < 3 := by decide
  exact hall k hk

theorem bigEndian_eq_ofNat (hi lo : Byte) : bigEndian hi lo = BitVec.ofNat 16 (hi.toNat * 256 + lo.toNat) := by
  rw [← bigEndian_toNat, BitVec.ofNat_toNat, BitVec.setWidth_eq]

theorem check_eq_decide (hi lo c : Byte) : check hi lo c = decide (crc8 [hi, lo] = c) := by
  rw [Bool.eq_iff_iff, check_iff, decide_eq_true_iff]

/-! ### The parse is a function of the word's three bytes (R75) -/

/-- The parse needs the three bytes of its word, and nothing else. -/
theorem parseWord_eq_bind (s : State) (k : BitVec 2) :
    s.parseWord k = (Memory.read s.buf (3 * k.toNat)).bind fun hi =>
      (Memory.read s.buf (3 * k.toNat + 1)).bind fun lo =>
        (Memory.read s.buf (3 * k.toNat + 2)).map fun c => (bigEndian hi lo, check hi lo c) := by
  simp only [State.parseWord, State.memRead2, State.checkWord, wordOff, crcOff]
  cases Memory.read s.buf (3 * k.toNat) with
  | none => rfl
  | some hi =>
    cases Memory.read s.buf (3 * k.toNat + 1) with
    | none => rfl
    | some lo => cases Memory.read s.buf (3 * k.toNat + 2) <;> rfl

theorem parseWord_eq_of_own_bytes
    (h : ∀ j < 3, Memory.read s.buf (3 * k.toNat + j) = Memory.read t.buf (3 * k.toNat + j)) :
    s.parseWord k = t.parseWord k := by
  have h0 : Memory.read s.buf (3 * k.toNat) = Memory.read t.buf (3 * k.toNat) := h 0 (by decide)
  rw [parseWord_eq_bind, parseWord_eq_bind, h0, h 1 (by decide), h 2 (by decide)]

theorem parseWord_eq_none_of_missing (h : ∃ j < 3, Memory.read s.buf (3 * k.toNat + j) = none) :
    s.parseWord k = none := by
  obtain ⟨j, hj, h⟩ := h
  rw [parseWord_eq_bind]
  match j, hj, h with
  | 0, _, (h : Memory.read s.buf (3 * k.toNat) = none) => simp [h]
  | 1, _, h => simp [h]
  | 2, _, h => simp [h]

/-! ### CHK.WORD (R76) -/

theorem exec_chkWord_of_parse (hk : k ≠ 3) (hv : s.bufValid = true) (hp : s.parseWord k = some (raw, v)) :
    exec (.chkWord k) s = .next (s.complete (.word raw v)) := by
  simp only [exec, execChkWord, wordIndexOk_iff.mpr hk, hv, hp, if_true]

theorem exec_chkWord_of_no_response (hk : k ≠ 3) (h : s.bufValid = false ∨ s.parseWord k = none) :
    exec (.chkWord k) s = .next (s.raise (.noResponse k)) := by
  rcases h with hv | hp
  · simp [exec, execChkWord, wordIndexOk_iff.mpr hk, hv]
  · simp [exec, execChkWord, wordIndexOk_iff.mpr hk, hp]

/-- The word that CHK.WORD 3 would have is the refused one (30_encoding.md R53). -/
theorem exec_chkWord_three (s : State) : exec (.chkWord 3) s = .next (s.raise (.refused 0x4300)) := rfl

/-- Settles O29: the three bytes are parsed to the word they count and to the check of it. -/
theorem chkWordReturnsWordAndValidity : Obligations.ChkWordReturnsWordAndValidity := by
  refine ⟨⟨rfl, rfl, rfl, rfl⟩, fun s k hi lo c hk hv h0 h1 h2 => ?_,
    fun s k hk hv => exec_chkWord_of_no_response hk (.inl hv)⟩
  rw [exec_chkWord_of_parse hk hv (parseWord_of_bytes h0 h1 h2), bigEndian_eq_ofNat, check_eq_decide]
  rfl

/-- Settles O30: the index 3 is refused before the buffer is looked at, and a word with a byte missing has no parse. -/
theorem chkWordWhereNoRunComes : Obligations.ChkWordWhereNoRunComes :=
  ⟨exec_chkWord_three, fun _ _ hk _ hmissing =>
    exec_chkWord_of_no_response hk (.inr (parseWord_eq_none_of_missing hmissing))⟩

/-! ### The reads of the sensor (42_sensor_transactions.md R87, R92-R94) -/

/-- A completed response is in the buffer after `fetch_body`. -/
theorem fetchBody_of_response (hw : s.nextWrite = .done) (hr : s.drewWrite.nextRead = .bytes bs)
    (hl : bs.length = 9) : fetchBody s = .completed () (afterFetch s bs) := by
  have hwrite : busWrite Config.devAddr Config.cmdRead s = .completed () (afterCommand s) := by
    simp only [busWrite, hw, afterCommand]
  have hread : busRead Config.devAddr Config.respLen (afterCommand s) =
      .completed bs ((afterCommand s).drewRead.record (.read Config.devAddr Config.respLen bs)) := by
    simp only [busRead, afterCommand, nextRead_record, hr, hl, Config.respLen, if_true]
  simp only [fetchBody, fetchTransaction, hwrite, andThen_completed, hread, clearOnFailure, afterFetch]

/-- Each read fetches a response and finishes with the word at its own offset. -/
theorem exec_read {p : Instr × Nat} (hp : p ∈ [(Instr.snsReadCo2, 0), (.snsReadTemp, 3), (.snsReadHum, 6)]) :
    ∃ (k : BitVec 2) (output : Word → Bool → Output), wordIndexOk k = true ∧ p.2 = 3 * k.toNat ∧
      ∀ s, exec p.1 s = .next ((fetchBody s).endState fun _ u => finishRead k output u) := by
  simp only [List.mem_cons, List.not_mem_nil, or_false] at hp
  rcases hp with rfl | rfl | rfl
  · exact ⟨0, co2Output, rfl, rfl, fun _ => rfl⟩
  · exact ⟨1, tempOutput, rfl, rfl, fun _ => rfl⟩
  · exact ⟨2, humOutput, rfl, rfl, fun _ => rfl⟩

/-- A read of a completed response whose word parses returns that word's reading. -/
theorem read_of_response (output : Word → Bool → Output) (hw : s.nextWrite = .done)
    (hr : s.drewWrite.nextRead = .bytes bs) (hl : bs.length = 9)
    (hp : (afterFetch s bs).parseWord k = some (raw, v)) :
    ((fetchBody s).endState fun _ u => finishRead k output u) =
      ((afterFetch s bs).setBufValid false).complete (output raw v) := by
  simp only [fetchBody_of_response hw hr hl, endState_completed, finishRead, hp]

/-- Settles O31: states that agree on the word's bytes parse it alike, and the output is the parse's. -/
theorem onlyTheWordsOwnBytesCount : Obligations.OnlyTheWordsOwnBytesCount := by
  refine ⟨fun s t k hk hvs hvt hfull _ hagree => ?_, fun s t bs cs hws hwt hrs hrt hbs hcs p hp hagree => ?_⟩
  · obtain ⟨hi, lo, c, -, -, -, hparse⟩ := parseWord_of_full hfull (wordIndexOk_iff.mpr hk)
    have hparse' : t.parseWord k = some (bigEndian hi lo, check hi lo c) :=
      (parseWord_eq_of_own_bytes hagree).symm.trans hparse
    exact ⟨_, _, _, exec_chkWord_of_parse hk hvs hparse, exec_chkWord_of_parse hk hvt hparse', rfl, rfl⟩
  · obtain ⟨k, output, hk, hoff, hexec⟩ := exec_read hp
    have hk3 : k.toNat < 3 := toNat_lt_three_of_wordIndexOk hk
    have hsame : (afterFetch s bs).parseWord k = (afterFetch t cs).parseWord k := by
      refine parseWord_eq_of_own_bytes fun j hj => ?_
      rw [afterFetch_read s hbs (by omega), afterFetch_read t hcs (by omega), ← hoff]
      exact hagree j hj
    obtain ⟨raw, v, hparse, -⟩ := finishRead_of_full (output := output) (afterFetch_full s hbs) hk
    refine ⟨_, _, output raw v, hexec s, hexec t, ?_, ?_⟩
    · rw [read_of_response output hws hrs hbs hparse]
      rfl
    · rw [read_of_response output hwt hrt hcs (hsame.symm.trans hparse)]
      rfl

end Sys2Proof.Machine
end

section
/-! The stops that are no faults, and how the operations of the sensor end under each answer of the transport
(70_reset_and_hazards.md R118; 42_sensor_transactions.md R81, R85-R88). -/

namespace Sys2Proof.Safety

open Sys2Proof.Machine

variable {i : Instr} {s : State} {bs : List Byte} {f : Nat}

/-! ### The stops of the step that are no faults -/

theorem step_of_stuck (hf : s.fault = none) (hs : s.stuck = true) : step s = .fault .neverCompletes := by
  have hfetch : fetch s = .waiting := by simp [fetch, hf, hs]
  simp only [step, hfetch]

theorem step_of_program_over (hs : running s = true) (hpc : s.program.length ≤ s.pc) :
    step s = .refused .endOfProgram := by
  obtain ⟨hf, hst⟩ := running_iff.mp hs
  have hfetch : fetch s = .ended := by simp [fetch, hf, hst, List.getElem?_eq_none hpc]
  simp only [step, hfetch]

theorem endsNormally_iff : endsNormally s = true ↔ s.fault = none ∧ s.stuck = false ∧ s.pc = s.program.length := by
  rw [endsNormally, Bool.and_eq_true, running_iff, beq_iff_eq, and_assoc]

/-- Settles O12: the fetch finds a stuck block waiting, and a running one past its program at the end. -/
theorem stopsThatAreNoFaults : Obligations.StopsThatAreNoFaults :=
  ⟨fun _ => step_of_stuck, fun _ => step_of_program_over, fun _ => endsNormally_iff⟩

/-! ### SNS.START under each answer (R85) -/

theorem busWrite_of_never (hw : s.nextWrite = .never) (a : Addr7) (w : Word) :
    busWrite a w s = .pending s.drewWrite := by
  simp only [busWrite, hw]

theorem exec_snsStart_of_elapsed (hw : s.nextWrite = .done) (hd : s.drewWrite.nextDelay = .elapsed) :
    exec .snsStart s = .next (((afterStart s).drewDelay.record (.delay Config.settleMs)).complete .empty) := by
  simp only [exec, execSnsStart, busWrite, hw, andThen_completed, busDelay, nextDelay_record, hd,
    endState_completed, afterStart]

theorem exec_snsStart_of_write_failed (hw : s.nextWrite = .failed f) : exec .snsStart s =
    .next (s.drewWrite.raise (.transport (.reported f) Config.devAddr (.write Config.cmdStart))) := by
  simp only [exec, execSnsStart, busWrite, hw, andThen_failed, endState_failed]

theorem exec_snsStart_of_delay_never (hw : s.nextWrite = .done) (hd : s.drewWrite.nextDelay = .never) :
    exec .snsStart s = .next (afterStart s).drewDelay.setStuck := by
  simp only [exec, execSnsStart, busWrite, hw, andThen_completed, busDelay, nextDelay_record, hd,
    endState_pending, afterStart]

/-- The two events of a completed SNS.START. -/
theorem afterStart_delay_trace (s : State) (e : Event) : ((afterStart s).drewDelay.record e).trace =
    s.trace ++ [.write Config.devAddr Config.cmdStart, e] :=
  List.append_assoc ..

/-- Settles O35: the two answers that let SNS.START end in Ok, and the failed write. -/
theorem snsStartCommandsAndWaits : Obligations.SnsStartCommandsAndWaits := by
  refine ⟨rfl, fun s hw hd => ?_, fun s f hw => exec_snsStart_of_write_failed hw, rfl⟩
  rw [exec_snsStart_of_elapsed hw hd, State.complete, afterStart_delay_trace]
  rfl

/-- The settling delay is all there is between the command and the next event (R84, R86). -/
theorem elapsedAtLeast_after_command (l : List Event) (w d e : Event) (ms : Nat) :
    elapsedAtLeast (l ++ [w, d] ++ [e]) l.length (l.length + 2) ms = delaysFor ms d := by
  have htake : (l ++ [w, d] ++ [e]).take (l.length + 2) = l ++ [w] ++ [d] :=
    (List.take_left' List.length_append).trans (List.append_cons l w [d])
  have hdrop : (l ++ [w] ++ [d]).drop (l.length + 1) = [d] := List.drop_left' List.length_append
  rw [elapsedAtLeast, htake, hdrop, List.any_cons, List.any_nil, Bool.or_false]

/-- Settles O36: of the four ways SNS.START can end, the one that leaves the block running has both events, and no
other one returns an output. -/
theorem settlingDelayCannotBeSkipped : Obligations.SettlingDelayCannotBeSkipped := by
  intro s t hs h
  rcases execSnsStart_cases s with ⟨-, -, he⟩ | ⟨f, -, he⟩ | ⟨-, he⟩ | ⟨-, -, he⟩ <;> cases h.symm.trans he
  · have htr := afterStart_delay_trace s (.delay Config.settleMs)
    refine ⟨fun _ => ⟨htr, fun e => ?_⟩, fun _ => hs⟩
    rw [State.complete_trace, htr, elapsedAtLeast_after_command]
    rfl
  all_goals exact ⟨fun hr => by simp [running] at hr, fun hout => absurd rfl hout⟩

/-! ### `fetch_body` under each answer that does not let it complete (R88) -/

theorem fetchBody_of_write_failed (hw : s.nextWrite = .failed f) : fetchBody s =
    .failed (.transport (.reported f) Config.devAddr (.write Config.cmdRead)) (s.drewWrite.setBufValid false) := by
  simp only [fetchBody, fetchTransaction, busWrite, hw, andThen_failed, clearOnFailure]

theorem fetchBody_of_write_never (hw : s.nextWrite = .never) : fetchBody s = .pending s.drewWrite := by
  simp only [fetchBody, fetchTransaction, busWrite_of_never hw, andThen_pending, clearOnFailure]

/-- After the command, `fetch_body` is the read. -/
theorem fetchTransaction_of_write_done (hw : s.nextWrite = .done) :
    fetchTransaction s = busRead Config.devAddr 9 (afterCommand s) := by
  simp only [fetchTransaction, busWrite, hw, andThen_completed, afterCommand, Config.respLen]

theorem fetchBody_of_read_failed (hw : s.nextWrite = .done) (hr : s.drewWrite.nextRead = .failed f) : fetchBody s =
    .failed (.transport (.reported f) Config.devAddr (.read 9)) ((afterCommand s).drewRead.setBufValid false) := by
  simp only [fetchBody, fetchTransaction_of_write_done hw, busRead, afterCommand, nextRead_record, hr, clearOnFailure,
    andThen_failed]

theorem fetchBody_of_short_read (hw : s.nextWrite = .done) (hr : s.drewWrite.nextRead = .bytes bs)
    (hl : bs.length ≠ 9) : fetchBody s =
      .failed (.transport .shortRead Config.devAddr (.read 9)) ((afterCommand s).drewRead.setBufValid false) := by
  simp only [fetchBody, fetchTransaction_of_write_done hw, busRead, afterCommand, nextRead_record, hr, hl, if_false,
    clearOnFailure, andThen_failed]

theorem fetchBody_of_read_never (hw : s.nextWrite = .done) (hr : s.drewWrite.nextRead = .never) :
    fetchBody s = .pending (afterCommand s).drewRead := by
  simp only [fetchBody, fetchTransaction_of_write_done hw, busRead, afterCommand, nextRead_record, hr, clearOnFailure,
    andThen_pending]

/-! ### The operations that fetch (R87, R92-R94) -/

/-- A fetching operation is `fetch_body` and what it does with a response. -/
theorem exec_fetchOp (hi : i ∈ fetchOps) :
    ∃ k : Unit → State → State, ∀ s, exec i s = .next ((fetchBody s).endState k) := by
  simp only [fetchOps, readOps, List.mem_cons, List.not_mem_nil, or_false] at hi
  rcases hi with rfl | rfl | rfl | rfl <;> exact ⟨_, fun _ => rfl⟩

/-- Where `fetch_body` faults, what follows it is not reached, so every fetching operation faults alike (R88). -/
theorem fetchFaults_of_mem (hi : i ∈ fetchOps) : FetchFaults i := by
  obtain ⟨k, hexec⟩ := exec_fetchOp hi
  refine ⟨fun s f hw => ?_, fun s f hw hr => ?_, fun s bs hw hr hl => ?_⟩
  · rw [hexec, fetchBody_of_write_failed hw]
    rfl
  · rw [hexec, fetchBody_of_read_failed hw hr]
    rfl
  · rw [hexec, fetchBody_of_short_read hw hr hl]
    rfl

/-- Settles O41: the four operations are the fetching ones. -/
theorem fetchFaultsArePrecise : Obligations.FetchFaultsArePrecise :=
  fun _ => fetchFaults_of_mem

/-- A write that never completes hangs every operation that begins with one (R81). -/
theorem exec_of_write_never (hi : i ∈ busOps) (hw : s.nextWrite = .never) : exec i s = .next s.drewWrite.setStuck := by
  by_cases hf : i ∈ fetchOps
  · obtain ⟨k, hexec⟩ := exec_fetchOp hf
    rw [hexec, fetchBody_of_write_never hw, endState_pending]
  · have hi' : i = .snsStart ∨ i = .busStart ∨ i = .busRead := by simpa [busOps, hf] using hi
    rcases hi' with rfl | rfl | rfl
    · simp only [exec, execSnsStart, busWrite_of_never hw, andThen_pending, endState_pending]
    · simp only [exec, execBusStart, busWrite_of_never hw, endState_pending]
    · simp only [exec, execBusRead, busWrite_of_never hw, endState_pending]

/-- Settles O42: each primitive that hangs leaves what was done before it. -/
theorem hangingPrimitiveSticks : Obligations.HangingPrimitiveSticks := by
  refine ⟨fun s hw i hi => exec_of_write_never hi hw, fun s hw hr i hi => ?_,
    fun s hw hd => exec_snsStart_of_delay_never hw hd⟩
  obtain ⟨k, hexec⟩ := exec_fetchOp hi
  rw [hexec, fetchBody_of_read_never hw hr]
  rfl

/-- A completed `fetch_body` with its fields written out (R87). -/
theorem afterFetch_eq (s : State) (bs : List Byte) : afterFetch s bs = { s with
    buf := Memory.fill s.buf 0 bs, bufValid := true,
    trace := s.trace ++ [.write Config.devAddr Config.cmdRead, .read Config.devAddr Config.respLen bs],
    writeReplies := s.writeReplies.tail, readReplies := s.readReplies.tail, draws := s.draws + 2 } := by
  rw [← afterFetch_trace]
  rfl

/-- Settles O37: `fetch_body` completes, and SNS.FETCH adds its output to that. -/
theorem snsFetchFillsTheBuffer : Obligations.SnsFetchFillsTheBuffer := by
  refine ⟨rfl, fetchFaults_of_mem List.mem_cons_self, fun s bs hw hr hl => ?_, rfl⟩
  refine ⟨Memory.fill s.buf 0 bs, read_fill_of_lt s.buf hl, read_fill_of_le s.buf hl, ?_⟩
  rw [exec, execSnsFetch, fetchBody_of_response hw hr hl, endState_completed, afterFetch_eq]
  rfl

end Sys2Proof.Safety
end

section
/-! The conversions from a raw word to a reading, and the reads of the sensor from the bytes of their response
(42_sensor_transactions.md R89-R97). -/

namespace Sys2Proof.Safety

open Sys2Proof.Machine

variable {i : Instr} {k : BitVec 2} {output : Word → Bool → Output} {s t : State} {bs : List Byte}

/-! ### The conversions (R90, R91) -/

theorem tempValue_eq_div (raw : Word) : tempValue raw = (175 * (raw.toNat : Rat) - 2949120) / 65536 := by
  rw [tempValue, Rat.mkRat_eq_div]
  push_cast
  rfl

theorem humValue_eq_div (raw : Word) : humValue raw = 25 * (raw.toNat : Rat) / 16384 := by
  rw [humValue, Rat.mkRat_eq_div]
  push_cast
  rfl

theorem tempValue_eq (raw : Word) : tempValue raw = -45 + 175 * (raw.toNat : Rat) / 65536 := by
  rw [tempValue_eq_div]
  ring

theorem humValue_eq (raw : Word) : humValue raw = 100 * (raw.toNat : Rat) / 65536 := by
  rw [humValue_eq_div]
  ring

theorem toNat_cast_le (raw : Word) : (raw.toNat : Rat) ≤ 65535 := by
  exact_mod_cast Nat.le_of_lt_succ raw.isLt

/-- 2949120 is no multiple of 175, so no raw word counts to it. -/
theorem tempValue_ne_zero (raw : Word) : tempValue raw ≠ 0 := by
  have hnum : (175 * raw.toNat : Rat) ≠ 2949120 := by
    norm_cast
    omega
  rw [tempValue_eq_div]
  exact div_ne_zero (sub_ne_zero.mpr hnum) (by norm_num)

theorem humValue_lt_hundred (raw : Word) : humValue raw < 100 := by
  rw [humValue_eq]
  linarith [toNat_cast_le raw]

/-- Settles O52: the two forms are one rational, which is evaluated at the corners. -/
theorem temperatureConversion : Obligations.TemperatureConversion := by
  refine ⟨fun raw => ⟨tempValue_eq raw, tempValue_eq_div raw, tempValue_ne_zero raw⟩, ?_, ?_, ?_, ?_, ?_⟩
  all_goals
    simp only [tempValue_eq, BitVec.reduceToNat]
    norm_num

/-- Settles O53: the two forms are one rational, which is evaluated at the corners. -/
theorem humidityConversion : Obligations.HumidityConversion := by
  refine ⟨fun raw => ⟨humValue_eq raw, humValue_eq_div raw, humValue_lt_hundred raw⟩, ?_, ?_, ?_⟩
  all_goals
    simp only [humValue_eq, BitVec.reduceToNat]
    norm_num

/-! ### The words of a response (41_response_parser.md R71-R73) -/

/-- The raw value of word k of a response (R72). -/
def responseWord (bs : List Byte) (k : BitVec 2) : Word :=
  bigEndian (bs.getD (3 * k.toNat) 0) (bs.getD (3 * k.toNat + 1) 0)

/-- The validity of word k of a response (R73). -/
def responseValid (bs : List Byte) (k : BitVec 2) : Bool :=
  check (bs.getD (3 * k.toNat) 0) (bs.getD (3 * k.toNat + 1) 0) (bs.getD (3 * k.toNat + 2) 0)

/-- After `fetch_body` the parser finds the words of the response. -/
theorem parseWord_afterFetch (s : State) (hk : wordIndexOk k = true) (hl : bs.length = 9) :
    (afterFetch s bs).parseWord k = some (responseWord bs k, responseValid bs k) := by
  have hk3 : k.toNat < 3 := toNat_lt_three_of_wordIndexOk hk
  have hread (a : Nat) (ha : a < 9) : Memory.read (afterFetch s bs).buf a = some (bs.getD a 0) := by
    rw [afterFetch_read s hl ha, List.getD_eq_getElem?_getD, List.getElem?_eq_getElem (hl ▸ ha), Option.getD_some]
  exact parseWord_of_bytes (hread _ (by omega)) (hread _ (by omega)) (hread _ (by omega))

/-! ### The reads (R92-R94) -/

/-- The instruction returns the reading of word k of a fresh response. -/
structure ReadsWord (i : Instr) (k : BitVec 2) (output : Word → Bool → Output) : Prop where
  index : wordIndexOk k = true
  exec_eq : ∀ s, exec i s = .next ((fetchBody s).endState fun _ u => finishRead k output u)

theorem readsWord_co2 : ReadsWord .snsReadCo2 0 co2Output := ⟨rfl, fun _ => rfl⟩

theorem readsWord_temp : ReadsWord .snsReadTemp 1 tempOutput := ⟨rfl, fun _ => rfl⟩

theorem readsWord_hum : ReadsWord .snsReadHum 2 humOutput := ⟨rfl, fun _ => rfl⟩

/-- A read that gets its response leaves it in the buffer, which is no longer valid, and returns its word's reading. -/
theorem ReadsWord.exec_of_response (h : ReadsWord i k output) (hw : s.nextWrite = .done)
    (hr : s.drewWrite.nextRead = .bytes bs) (hl : bs.length = 9) :
    ∃ buf, (∀ a < 9, Memory.read buf a = bs[a]?) ∧ (∀ a, 9 ≤ a → Memory.read buf a = Memory.read s.buf a) ∧
      exec i s = .next { s with
        buf := buf, bufValid := false,
        trace := s.trace ++ [.write 0x62 0xEC05, .read 0x62 9 bs],
        writeReplies := s.writeReplies.tail, readReplies := s.readReplies.tail, draws := s.draws + 2,
        outputs := s.outputs ++ [output (responseWord bs k) (responseValid bs k)],
        pc := s.pc + 1 } := by
  refine ⟨Memory.fill s.buf 0 bs, read_fill_of_lt s.buf hl, read_fill_of_le s.buf hl, ?_⟩
  rw [h.exec_eq, read_of_response output hw hr hl (parseWord_afterFetch s h.index hl), afterFetch_eq]
  rfl

/-- A read makes one whole transaction and returns a reading of its response, or it stops the block with no output. -/
theorem ReadsWord.returns_or_stops (h : ReadsWord i k output) (he : exec i s = .next t) :
    (∃ bs : List Byte, bs.length = 9 ∧ t.trace = s.trace ++ [.write 0x62 0xEC05, .read 0x62 9 bs] ∧
      t.outputs = s.outputs ++ [output (responseWord bs k) (responseValid bs k)]) ∨
    (t.outputs = s.outputs ∧ running t = false) := by
  rw [h.exec_eq] at he
  injection he with he
  rcases readOp_cases h.index output s with ⟨bs, raw, v, -, -, hl, hp, ht⟩ | ⟨f, -, ht⟩ | ⟨bs, -, -, -, ht⟩ |
    ⟨f, -, -, ht⟩ | ⟨-, ht⟩ | ⟨-, -, ht⟩ <;> subst he <;> rw [ht]
  · rw [parseWord_afterFetch s h.index hl] at hp
    cases hp
    exact .inl ⟨bs, hl, afterFetch_trace s bs, rfl⟩
  all_goals exact .inr ⟨rfl, by simp [running]⟩

/-- A read that leaves the block running made its transaction. -/
theorem ReadsWord.returns_of_running (h : ReadsWord i k output) (he : exec i s = .next t) (ht : running t = true) :
    ∃ bs : List Byte, bs.length = 9 ∧ t.trace = s.trace ++ [.write 0x62 0xEC05, .read 0x62 9 bs] ∧
      t.outputs = s.outputs ++ [output (responseWord bs k) (responseValid bs k)] :=
  (h.returns_or_stops he).resolve_right fun hstop => by simp [hstop.2] at ht

/-- What a read returns is a reading of some word. -/
theorem ReadsWord.output_eq {o : Output} (h : ReadsWord i k output) (he : exec i s = .next t)
    (ho : t.outputs = s.outputs ++ [o]) : ∃ raw v, o = output raw v := by
  rcases h.returns_or_stops he with ⟨bs, -, -, hout⟩ | ⟨hout, -⟩
  · exact ⟨_, _, by simpa [hout] using ho.symm⟩
  · simp [hout] at ho

/-! ### The readings of a response's bytes -/

theorem co2Output_of_bytes (hi lo c : Byte) : co2Output (bigEndian hi lo) (check hi lo c) =
    .co2 (if crc8 [hi, lo] = c then ((hi.toNat * 256 + lo.toNat : Nat) : Int) else -1) := by
  simp only [co2Output, co2Value, bigEndian_toNat, check_iff, Config.co2Invalid]

theorem tempOutput_of_bytes (hi lo c : Byte) : tempOutput (bigEndian hi lo) (check hi lo c) =
    .real (if crc8 [hi, lo] = c then .value (-45 + 175 * ((hi.toNat * 256 + lo.toNat : Nat) : Rat) / 65536)
      else .notANumber) := by
  simp only [tempOutput, tempValue_eq, bigEndian_toNat, check_iff]

theorem humOutput_of_bytes (hi lo c : Byte) : humOutput (bigEndian hi lo) (check hi lo c) =
    .real (if crc8 [hi, lo] = c then .value (100 * ((hi.toNat * 256 + lo.toNat : Nat) : Rat) / 65536)
      else .notANumber) := by
  simp only [humOutput, humValue_eq, bigEndian_toNat, check_iff]

/-- Settles O38: SNS.READ_CO2 reads word 0. -/
theorem snsReadCo2Reading : Obligations.SnsReadCo2Reading := by
  refine ⟨rfl, fetchFaults_of_mem (by decide), fun s b0 b1 b2 b3 b4 b5 b6 b7 b8 hw hr => ?_⟩
  rw [← co2Output_of_bytes]
  exact readsWord_co2.exec_of_response hw hr rfl

/-- Settles O39: SNS.READ_TEMP reads word 1. -/
theorem snsReadTempReading : Obligations.SnsReadTempReading := by
  refine ⟨rfl, fetchFaults_of_mem (by decide), fun s b0 b1 b2 b3 b4 b5 b6 b7 b8 hw hr => ?_⟩
  rw [← tempOutput_of_bytes]
  exact readsWord_temp.exec_of_response hw hr rfl

/-- Settles O40: SNS.READ_HUM reads word 2. -/
theorem snsReadHumReading : Obligations.SnsReadHumReading := by
  refine ⟨rfl, fetchFaults_of_mem (by decide), fun s b0 b1 b2 b3 b4 b5 b6 b7 b8 hw hr => ?_⟩
  rw [← humOutput_of_bytes]
  exact readsWord_hum.exec_of_response hw hr rfl

/-- Settles O43: each of the three reads left the block running, so each made its own transaction. -/
theorem threeReadsThreeTransactions : Obligations.ThreeReadsThreeTransactions := by
  intro s t hs h ht
  obtain ⟨u, hco2, hu, h⟩ := execSeq_cons_running h ht
  obtain ⟨v, htemp, hv, h⟩ := execSeq_cons_running h ht
  obtain ⟨w, hhum, hw, h⟩ := execSeq_cons_running h ht
  cases h
  obtain ⟨a, ha, hatr, haout⟩ := readsWord_co2.returns_of_running hco2 hu
  obtain ⟨b, hb, hbtr, hbout⟩ := readsWord_temp.returns_of_running htemp hv
  obtain ⟨c, hc, hctr, hcout⟩ := readsWord_hum.returns_of_running hhum hw
  refine ⟨a, b, c, ha, hb, hc, ?_, ?_⟩
  · simp only [hctr, hbtr, hatr, List.append_assoc, List.cons_append, List.nil_append]
  · rw [hcout, hbout, haout, List.append_assoc, List.append_assoc]
    rfl

/-! ### The domains (R97) -/

theorem tempValue_mem (raw : Word) : -45 ≤ tempValue raw ∧ tempValue raw ≤ 8519505 / 65536 ∧
    ∃ n : Nat, tempValue raw = -45 + n * (175 / 65536) := by
  have h0 : (0 : Rat) ≤ raw.toNat := Nat.cast_nonneg _
  have h1 := toNat_cast_le raw
  rw [tempValue_eq]
  exact ⟨by linarith, by linarith, raw.toNat, by ring⟩

theorem humValue_mem (raw : Word) : 0 ≤ humValue raw ∧ humValue raw ≤ 1638375 / 16384 ∧
    ∃ n : Nat, humValue raw = n * (25 / 16384) := by
  have h0 : (0 : Rat) ≤ raw.toNat := Nat.cast_nonneg _
  have h1 := toNat_cast_le raw
  rw [humValue_eq_div]
  exact ⟨by linarith, by linarith, raw.toNat, by ring⟩

/-- Settles O54: what a read returns is its sentinel or the reading of a raw word, which is in the domain. -/
theorem readingsStayInTheirDomains : Obligations.ReadingsStayInTheirDomains := by
  intro s t o ho
  refine ⟨fun he => ?_, fun he => ?_, fun he => ?_⟩
  · obtain ⟨raw, v, rfl⟩ := readsWord_co2.output_eq he ho
    exact ⟨_, rfl, legalOutput_co2 raw v⟩
  · obtain ⟨raw, v, rfl⟩ := readsWord_temp.output_eq he ho
    cases v with
    | false => exact .inl rfl
    | true => exact .inr ⟨tempValue raw, rfl, tempValue_mem raw⟩
  · obtain ⟨raw, v, rfl⟩ := readsWord_hum.output_eq he ho
    cases v with
    | false => exact .inl rfl
    | true => exact .inr ⟨humValue raw, rfl, humValue_mem raw⟩

end Sys2Proof.Safety
end

section
/-! The register forms of the outputs: two's complement, and binary64 patterns by their three fields
(42_sensor_transactions.md R98). -/

namespace Sys2Proof.Safety

open Sys2Proof.Machine

/-! ### The fields of a pattern -/

/-- The pattern with this sign bit, biased exponent and fraction. -/
def fieldPattern (neg : Bool) (e : BitVec 11) (m : BitVec 52) : BitVec 64 := BitVec.ofBool neg ++ e ++ m

section
variable (neg : Bool) (e : BitVec 11) (m : BitVec 52)

@[simp] theorem fraction_fieldPattern : (fieldPattern neg e m).extractLsb' 0 52 = m :=
  BitVec.extractLsb'_append_eq_right

@[simp] theorem exponent_fieldPattern : (fieldPattern neg e m).extractLsb' 52 11 = e :=
  (BitVec.extractLsb'_append_eq_of_le (Nat.le_refl 52)).trans BitVec.extractLsb'_append_eq_right

@[simp] theorem sign_fieldPattern : (fieldPattern neg e m).getLsbD 63 = neg := by
  rw [fieldPattern, BitVec.getLsbD_append, BitVec.getLsbD_append]
  simp

end

/-- A pattern with a value is no NaN. -/
theorem isNaN_eq_false_of_value {b : BitVec 64} {q : Rat} (h : binary64Value b = some q) : isNaN b = false := by
  have he : b.extractLsb' 52 11 ≠ 0x7FF#11 := by
    intro he
    simp [binary64Value, he] at h
  simp [isNaN, he]

/-- The sentinel's fraction field is nonzero, since the free value is one less than it (log 8). -/
theorem isNaN_nanPattern : isNaN nanPattern = true := by
  have hpattern : nanPattern = fieldPattern Config.nanSign 0x7FF (BitVec.ofNat 52 (Config.nanFraction.val + 1)) := rfl
  have hfrac : BitVec.ofNat 52 (Config.nanFraction.val + 1) ≠ 0 := by
    intro h
    have := congrArg BitVec.toNat h
    have := Config.nanFraction.isLt
    simp only [BitVec.toNat_ofNat, BitVec.ofNat_eq_ofNat] at *
    omega
  rw [isNaN, hpattern, exponent_fieldPattern, fraction_fieldPattern]
  simpa using hfrac

/-! ### The value of a normal pattern -/

theorem binary64Value_fieldPattern (neg : Bool) {e m : Nat} (hpos : 0 < e) (he : e < 2047) (hm : m < 2 ^ 52) :
    binary64Value (fieldPattern neg (BitVec.ofNat 11 e) (BitVec.ofNat 52 m)) =
      some ((if neg then -1 else 1 : Rat) * (2 ^ 52 + m) * 2 ^ ((e : Int) - 1075)) := by
  have he' : (BitVec.ofNat 11 e).toNat = e := (BitVec.toNat_ofNat e 11).trans (Nat.mod_eq_of_lt (by omega))
  have hm' : (BitVec.ofNat 52 m).toNat = m := (BitVec.toNat_ofNat m 52).trans (Nat.mod_eq_of_lt hm)
  simp only [binary64Value, exponent_fieldPattern, fraction_fieldPattern, sign_fieldPattern, he', hm',
    hpos.ne', he.ne, if_false]

/-- The fraction bits below the leading one of a numerator of at most 53 bits. -/
def fractionBits (m : Nat) : Nat := (m - 2 ^ m.log2) * 2 ^ (52 - m.log2)

theorem two_pow_mul_two_pow_sub {a b : Nat} (h : b ≤ 52) : 2 ^ (b + a) * 2 ^ (52 - b) = 2 ^ (52 + a) := by
  rw [← pow_add]
  congr 1
  omega

/-- The leading one and the fraction bits are the numerator, shifted up to the top. -/
theorem two_pow_add_fractionBits {m : Nat} (h0 : m ≠ 0) (hm : m < 2 ^ 53) :
    2 ^ 52 + fractionBits m = m * 2 ^ (52 - m.log2) := by
  have hlog : m.log2 < 53 := (Nat.log2_lt h0).mpr hm
  have hlead : 2 ^ m.log2 * 2 ^ (52 - m.log2) = 2 ^ 52 := two_pow_mul_two_pow_sub (a := 0) (Nat.le_of_lt_succ hlog)
  rw [fractionBits, ← hlead, ← add_mul, Nat.add_sub_cancel' (Nat.log2_self_le h0)]

theorem fractionBits_lt {m : Nat} (h0 : m ≠ 0) (hm : m < 2 ^ 53) : fractionBits m < 2 ^ 52 := by
  have hlog : m.log2 < 53 := (Nat.log2_lt h0).mpr hm
  have htop : m * 2 ^ (52 - m.log2) < 2 ^ 53 := calc
    m * 2 ^ (52 - m.log2)
    _ < 2 ^ (m.log2 + 1) * 2 ^ (52 - m.log2) := Nat.mul_lt_mul_of_pos_right Nat.lt_log2_self (by positivity)
    _ = 2 ^ 53 := two_pow_mul_two_pow_sub (a := 1) (Nat.le_of_lt_succ hlog)
  have hsum := two_pow_add_fractionBits h0 hm
  omega

theorem sign_mul_natAbs (n : Int) : (if decide (n < 0) then -1 else 1 : Rat) * (n.natAbs : Rat) = n := by
  by_cases hn : n < 0
  · rw [Nat.cast_natAbs, abs_of_neg hn]
    simp [hn]
  · rw [Nat.cast_natAbs, abs_of_nonneg (not_lt.mp hn)]
    simp [hn]

/-- The shift of the numerator and the biased exponent leave the denominator. -/
theorem two_pow_mul_two_zpow_exponent {l d : Nat} (hl : l < 53) (hd : d ≤ 1022) :
    (2 : Rat) ^ (52 - l) * 2 ^ (((1023 + l - d : Nat) : Int) - 1075) = (2 ^ d)⁻¹ := by
  rw [← zpow_natCast, ← zpow_add₀ two_ne_zero, ← zpow_natCast, ← zpow_neg]
  congr 1
  omega

theorem binary64_eq_fieldPattern {q : Rat} {d : Nat} (h0 : q.num ≠ 0) (hden : q.den = 2 ^ d) :
    binary64 q = fieldPattern (decide (q.num < 0)) (BitVec.ofNat 11 (1023 + q.num.natAbs.log2 - d))
      (BitVec.ofNat 52 (fractionBits q.num.natAbs)) := by
  simp only [binary64, h0, if_false, hden, Nat.log2_two_pow, fieldPattern, fractionBits]

/-- The binary64 form of a dyadic rational whose numerator fits has exactly its value. -/
theorem binary64Value_binary64 {q : Rat} {d : Nat} (hnum : q.num.natAbs < 2 ^ 53) (hden : q.den = 2 ^ d)
    (hd : d ≤ 1022) : binary64Value (binary64 q) = some q := by
  by_cases hzero : q.num = 0
  · rw [Rat.num_eq_zero.mp hzero]
    rfl
  · have h0 : q.num.natAbs ≠ 0 := Int.natAbs_ne_zero.mpr hzero
    have hlog : q.num.natAbs.log2 < 53 := (Nat.log2_lt h0).mpr hnum
    have hsig : (2 ^ 52 + fractionBits q.num.natAbs : Rat) = q.num.natAbs * 2 ^ (52 - q.num.natAbs.log2) := by
      exact_mod_cast two_pow_add_fractionBits h0 hnum
    have hq : (q.num : Rat) * (2 ^ d)⁻¹ = q := by
      have hfrac := Rat.num_div_den q
      rwa [hden, Nat.cast_pow, Nat.cast_ofNat, div_eq_mul_inv] at hfrac
    rw [binary64_eq_fieldPattern hzero hden,
      binary64Value_fieldPattern _ (by omega) (by omega) (fractionBits_lt h0 hnum), hsig, ← mul_assoc, sign_mul_natAbs,
      mul_assoc, two_pow_mul_two_zpow_exponent hlog hd, hq]

/-! ### The readings are dyadic rationals -/

/-- A numerator below 2^24 over a power of two that binary64 has room for. -/
def SmallDyadic (q : Rat) : Prop := q.num.natAbs < 2 ^ 24 ∧ ∃ d ≤ 1022, q.den = 2 ^ d

theorem smallDyadic_mkRat {n : Int} {p : Nat} (hn : n.natAbs < 2 ^ 24) (hp : p ≤ 1022) :
    SmallDyadic (mkRat n (2 ^ p)) := by
  have hne : ((2 ^ p : Nat) : Int) ≠ 0 := by positivity
  rw [Rat.mkRat_eq_divInt]
  constructor
  · by_cases hzero : n = 0
    · simp [hzero]
    · exact (Nat.le_of_dvd (by omega) (Int.natAbs_dvd_natAbs.mpr (Rat.num_dvd n hne))).trans_lt hn
  · obtain ⟨d, hd, hden⟩ := (Nat.dvd_prime_pow Nat.prime_two).mp (Int.natCast_dvd_natCast.mp (Rat.den_dvd n _))
    exact ⟨d, hd.trans hp, hden⟩

theorem smallDyadic_tempValue (raw : Word) : SmallDyadic (tempValue raw) :=
  smallDyadic_mkRat (p := 16) (by have := raw.isLt; omega) (by decide)

theorem smallDyadic_humValue (raw : Word) : SmallDyadic (humValue raw) :=
  smallDyadic_mkRat (p := 14) (by have := raw.isLt; omega) (by decide)

theorem co2Register_co2Value (raw : Word) : co2Register (co2Value raw) = raw.setWidth 32 := by
  rw [co2Register, co2Value, BitVec.ofInt_natCast, BitVec.ofNat_toNat]

/-- Settles O55: every reading is a small dyadic rational, and binary64 is exact on those. -/
theorem registerFormsAreExact : Obligations.RegisterFormsAreExact := by
  refine ⟨rfl, co2Register_co2Value, fun raw q hq => ?_, rfl, isNaN_nanPattern⟩
  have hsmall : SmallDyadic q := by
    simp only [List.mem_cons, List.not_mem_nil, or_false] at hq
    rcases hq with rfl | rfl
    · exact smallDyadic_tempValue raw
    · exact smallDyadic_humValue raw
  obtain ⟨hnum, d, hd, hden⟩ := hsmall
  have hvalue : binary64Value (binary64 q) = some q :=
    binary64Value_binary64 (hnum.trans (by decide)) hden hd
  exact ⟨hvalue, isNaN_eq_false_of_value hvalue, hnum, d, hden⟩

end Sys2Proof.Safety
end

section
/-! The stop of the step with a fault, and that a checksum mismatch is no fault (60_exceptions.md R99, R103, R108). -/

namespace Sys2Proof.Safety

open Sys2Proof.Machine

variable {i : Instr} {k : BitVec 2} {output : Word → Bool → Output} {s : State} {bs : List Byte} {f : FaultRecord}
  {w : Word}

/-! ### The stop of the step with a fault (R103, R108) -/

theorem step_of_fault (h : s.fault = some f) : step s = .fault .stopped := by
  have hfetch : fetch s = .stopped := by simp [fetch, h]
  simp only [step, hfetch]

theorem step_of_refused_word {e : DecodeRefusal} (hs : running s = true) (hw : s.program[s.pc]? = some w)
    (hd : decode .hostop w = .error e) : step s = .next (s.raise (.refused w)) := by
  obtain ⟨hf, hst⟩ := running_iff.mp hs
  have hfetch : fetch s = .badWord w := by simp [fetch, hf, hst, hw, fetchWord, hd]
  simp only [step, hfetch, refuseWord]

theorem endsNormally_raise (s : State) (f : FaultRecord) : endsNormally (s.raise f) = false :=
  Bool.eq_false_iff.mpr fun h => nomatch (endsNormally_iff.mp h).1

/-- Settles O10: the refused word is raised as a fault, and a state with a fault has stopped. -/
theorem refusedWordIsOnlyRecorded : Obligations.RefusedWordIsOnlyRecorded :=
  fun s w _ hs hw hd => ⟨step_of_refused_word hs hw hd, rfl, step_of_fault rfl, endsNormally_raise s (.refused w)⟩

/-- Settles O11: the fetch looks at `fault` first, and reset clears it. -/
theorem faultIsFinalUntilReset : Obligations.FaultIsFinalUntilReset :=
  ⟨fun _ _ => step_of_fault, fun _ _ h => (step_cases h).1, State.resetBlock_fault⟩

/-! ### A checksum mismatch is an output (R99) -/

theorem check_eq_false_iff (hi lo c : Byte) : check hi lo c = false ↔ crc8 [hi, lo] ≠ c := by
  rw [← Bool.not_eq_true, check_iff]

/-- A read whose word does not pass the check returns what it returns of an invalid word, after one transaction. -/
theorem ReadsWord.exec_of_mismatch (h : ReadsWord i k output) (hs : running s = true) (hw : s.nextWrite = .done)
    (hr : s.drewWrite.nextRead = .bytes bs) (hl : bs.length = 9)
    (hc : crc8 [bs.getD (3 * k.toNat) 0, bs.getD (3 * k.toNat + 1) 0] ≠ bs.getD (3 * k.toNat + 2) 0) :
    ∃ t, exec i s = .next t ∧ running t = true ∧ t.outputs = s.outputs ++ [output (responseWord bs k) false] ∧
      t.trace = s.trace ++ [.write 0x62 0xEC05, .read 0x62 9 bs] := by
  obtain ⟨buf, -, -, he⟩ := h.exec_of_response hw hr hl
  have hvalid : responseValid bs k = false := (check_eq_false_iff ..).mpr hc
  exact ⟨_, he, hs, by rw [hvalid], rfl⟩

/-- Settles O44: CHK.WORD completes with the validity it computed, and each read with its sentinel. -/
theorem checksumMismatchIsAnOutput : Obligations.ChecksumMismatchIsAnOutput := by
  refine ⟨fun s k hi lo c hs hk hv h0 h1 h2 hc => ?_, fun s bs hs hw hr hl p hp hc => ?_⟩
  · have hparse : s.parseWord k = some (bigEndian hi lo, false) := by
      rw [parseWord_of_bytes h0 h1 h2, (check_eq_false_iff ..).mpr hc]
    exact ⟨_, exec_chkWord_of_parse hk hv hparse, hs, rfl⟩
  · simp only [List.mem_cons, List.not_mem_nil, or_false] at hp
    rcases hp with rfl | rfl | rfl
    · exact readsWord_co2.exec_of_mismatch hs hw hr hl hc
    · exact readsWord_temp.exec_of_mismatch hs hw hr hl hc
    · exact readsWord_hum.exec_of_mismatch hs hw hr hl hc

end Sys2Proof.Safety
end

section
/-! Which fault a host operation raises, in which state and with what information, and its code (60_exceptions.md
R101, R102, R104). -/

namespace Sys2Proof.Safety

open Sys2Proof.Machine

variable {i : Instr} {s t : State} {bs : List Byte} {f : FaultRecord} {n : Nat}

/-! ### The faults that are due -/

/-- The host operations that ask a primitive. -/
def hostBusOps : List Instr := .snsStart :: fetchOps

/-- The command word that a host bus operation writes first (42_sensor_transactions.md R85, R87). -/
def commandOf (i : Instr) : Word := if i = .snsStart then Config.cmdStart else Config.cmdRead

theorem ne_snsStart_of_fetch (hi : i ∈ fetchOps) : i ≠ .snsStart := by
  rintro rfl
  exact absurd hi (by decide)

theorem commandOf_fetchOp (hi : i ∈ fetchOps) : commandOf i = Config.cmdRead :=
  if_neg (ne_snsStart_of_fetch hi)

/-- The faults of the well-formed host operations: in which state, from which operation, with what information. -/
inductive Raises (s : State) : Instr → FaultRecord → Prop
  | writeFailed {i : Instr} {n : Nat} : i ∈ hostBusOps → s.nextWrite = .failed n →
      Raises s i (.transport (.reported n) Config.devAddr (.write (commandOf i)))
  | readFailed {i : Instr} {n : Nat} : i ∈ fetchOps → s.nextWrite = .done → s.drewWrite.nextRead = .failed n →
      Raises s i (.transport (.reported n) Config.devAddr (.read 9))
  | shortRead {i : Instr} {bs : List Byte} : i ∈ fetchOps → s.nextWrite = .done →
      s.drewWrite.nextRead = .bytes bs → bs.length ≠ 9 →
      Raises s i (.transport .shortRead Config.devAddr (.read 9))
  | update (b : Byte) : s.acc = none → Raises s (.crcUpdate b) (.accUninitialised .update)
  | read : s.acc = none → Raises s .crcRead (.accUninitialised .read)
  | noResponse {k : BitVec 2} : k ≠ 3 → s.bufValid = false → Raises s (.chkWord k) (.noResponse k)

/-- Where a fault is due, the operation ends with it. -/
theorem Raises.fault_eq (h : Raises s i f) (he : exec i s = .next t) : t.fault = some f := by
  cases h with
  | writeFailed hi hw =>
    rcases List.mem_cons.mp hi with rfl | hif
    · cases he.symm.trans (exec_snsStart_of_write_failed hw)
      rfl
    · cases he.symm.trans ((fetchFaults_of_mem hif).1 s _ hw)
      rw [commandOf_fetchOp hif]
      rfl
  | readFailed hi hw hr =>
    cases he.symm.trans ((fetchFaults_of_mem hi).2.1 s _ hw hr)
    rfl
  | shortRead hi hw hr hl =>
    cases he.symm.trans ((fetchFaults_of_mem hi).2.2 s _ hw hr hl)
    rfl
  | update b ha =>
    cases he.symm.trans (exec_crcUpdate_of_no_acc ha b)
    rfl
  | read ha =>
    cases he.symm.trans (exec_crcRead_of_no_acc ha)
    rfl
  | noResponse hk hv =>
    cases he.symm.trans (exec_chkWord_of_no_response hk (.inl hv))
    rfl

/-- The operation ended without a fault, or with one that was due. -/
def FaultIsDue (s : State) (i : Instr) (t : State) : Prop := t.fault = none ∨ ∃ f, Raises s i f ∧ t.fault = some f

theorem Raises.faultIsDue (h : Raises s i f) (he : exec i s = .next t) : FaultIsDue s i t :=
  .inr ⟨f, h, h.fault_eq he⟩

theorem faultIsDue_snsStart (hs : s.fault = none) (he : exec .snsStart s = .next t) : FaultIsDue s .snsStart t := by
  rcases execSnsStart_cases s with ⟨-, -, he'⟩ | ⟨n, hw, -⟩ | ⟨-, he'⟩ | ⟨-, -, he'⟩
  · cases he.symm.trans he'
    exact .inl hs
  · exact (Raises.writeFailed List.mem_cons_self hw).faultIsDue he
  all_goals
    cases he.symm.trans he'
    exact .inl hs

theorem readsWord_of_readOp (hi : i ∈ readOps) : ∃ k output, ReadsWord i k output := by
  simp only [readOps, List.mem_cons, List.not_mem_nil, or_false] at hi
  rcases hi with rfl | rfl | rfl
  · exact ⟨_, _, readsWord_co2⟩
  · exact ⟨_, _, readsWord_temp⟩
  · exact ⟨_, _, readsWord_hum⟩

/-- With a response a fetching operation raises nothing. -/
theorem fault_of_response (hi : i ∈ fetchOps) (hw : s.nextWrite = .done) (hr : s.drewWrite.nextRead = .bytes bs)
    (hl : bs.length = 9) (he : exec i s = .next t) : t.fault = s.fault := by
  rcases List.mem_cons.mp hi with rfl | hread
  · rw [exec, execSnsFetch, fetchBody_of_response hw hr hl] at he
    cases he
    rfl
  · obtain ⟨k, output, hk⟩ := readsWord_of_readOp hread
    obtain ⟨buf, -, -, he'⟩ := hk.exec_of_response hw hr hl
    cases he.symm.trans he'
    rfl

theorem faultIsDue_fetchOp (hi : i ∈ fetchOps) (hs : s.fault = none) (he : exec i s = .next t) :
    FaultIsDue s i t := by
  cases hw : s.nextWrite with
  | failed n => exact (Raises.writeFailed (List.mem_cons_of_mem _ hi) hw).faultIsDue he
  | never =>
    cases he.symm.trans (exec_of_write_never (mem_busOps_of_fetch hi) hw)
    exact .inl hs
  | done =>
    cases hr : s.drewWrite.nextRead with
    | failed n => exact (Raises.readFailed hi hw hr).faultIsDue he
    | never =>
      obtain ⟨k, hexec⟩ := exec_fetchOp hi
      rw [hexec, fetchBody_of_read_never hw hr] at he
      cases he
      exact .inl hs
    | bytes bs =>
      by_cases hl : bs.length = 9
      · exact .inl ((fault_of_response hi hw hr hl he).trans hs)
      · exact (Raises.shortRead hi hw hr hl).faultIsDue he

theorem faultIsDue_hostBusOp (hi : i ∈ hostBusOps) (hs : s.fault = none) (he : exec i s = .next t) :
    FaultIsDue s i t := by
  rcases List.mem_cons.mp hi with rfl | hif
  · exact faultIsDue_snsStart hs he
  · exact faultIsDue_fetchOp hif hs he

/-- A well-formed host operation raises no other fault, where a valid buffer is full. -/
theorem faultIsDue_hostOp (hwf : i.wf = true) (hhost : formatOf i = .hostop) (hs : s.fault = none)
    (hfull : s.bufValid = true → Memory.full s.buf = true) (he : exec i s = .next t) : FaultIsDue s i t := by
  cases i with
  | crcInit =>
    cases he
    exact .inl hs
  | crcUpdate b =>
    cases ha : s.acc with
    | none => exact (Raises.update b ha).faultIsDue he
    | some a =>
      cases he.symm.trans (exec_crcUpdate_of_acc ha b)
      exact .inl hs
  | crcRead =>
    cases ha : s.acc with
    | none => exact (Raises.read ha).faultIsDue he
    | some a =>
      cases he.symm.trans (exec_crcRead_of_acc ha)
      exact .inl hs
  | chkWord k =>
    have hk : k ≠ 3 := wordIndexOk_iff.mp hwf
    cases hv : s.bufValid with
    | false => exact (Raises.noResponse hk hv).faultIsDue he
    | true =>
      obtain ⟨hi, lo, c, -, -, -, hparse⟩ := parseWord_of_full (hfull hv) hwf
      cases he.symm.trans (exec_chkWord_of_parse hk hv hparse)
      exact .inl hs
  | snsStart | snsFetch | snsReadCo2 | snsReadTemp | snsReadHum => exact faultIsDue_hostBusOp (by decide) hs he
  | busStart | busRead => cases hhost

/-! ### What raises a fault of each code -/

theorem outcomeCode_eq_zero_iff {o : Option FaultRecord} : outcomeCode o = 0 ↔ o = none := by
  cases o with
  | none => simp [outcomeCode]
  | some f => cases f <;> simp [outcomeCode]

theorem Raises.code_le_three (h : Raises s i f) : outcomeCode (some f) ≤ 3 := by
  cases h <;> simp [outcomeCode]

theorem Raises.transport_of_hostBusOp (h : Raises s i f) (hi : i ∈ hostBusOps) :
    ∃ kind addr phase, f = .transport kind addr phase := by
  cases h with
  | writeFailed | readFailed | shortRead => exact ⟨_, _, _, rfl⟩
  | update | read | noResponse => simp [hostBusOps, fetchOps, readOps] at hi

/-- A code other than 0 is the code of a fault that was due, and the other way round. -/
theorem FaultIsDue.code_eq_iff (h : FaultIsDue s i t) (he : exec i s = .next t) (hn : n ≠ 0) :
    outcomeCode t.fault = n ↔ ∃ f, Raises s i f ∧ outcomeCode (some f) = n := by
  constructor
  · intro hcode
    rcases h with hnone | ⟨f, hf, hfault⟩
    · exact absurd (hcode.symm.trans (outcomeCode_eq_zero_iff.mpr hnone)) hn
    · exact ⟨f, hf, by rw [← hfault, hcode]⟩
  · rintro ⟨f, hf, hcode⟩
    rw [hf.fault_eq he, hcode]

theorem FaultIsDue.code_le_three (h : FaultIsDue s i t) : outcomeCode t.fault ≤ 3 := by
  rcases h with hnone | ⟨f, hf, hfault⟩
  · simp [hnone, outcomeCode]
  · rw [hfault]
    exact hf.code_le_three

/-- What answers of the transport make a host bus operation fault. -/
theorem raises_transport_iff : (∃ f, Raises s i f ∧ outcomeCode (some f) = 1) ↔
    i ∈ hostBusOps ∧ ((∃ n, s.nextWrite = .failed n) ∨ (i ≠ .snsStart ∧ s.nextWrite = .done ∧
      ((∃ n, s.drewWrite.nextRead = .failed n) ∨ ∃ bs, s.drewWrite.nextRead = .bytes bs ∧ bs.length ≠ 9))) := by
  constructor
  · rintro ⟨f, hf, hcode⟩
    cases hf with
    | writeFailed hi hw => exact ⟨hi, .inl ⟨_, hw⟩⟩
    | readFailed hi hw hr =>
      exact ⟨List.mem_cons_of_mem _ hi, .inr ⟨ne_snsStart_of_fetch hi, hw, .inl ⟨_, hr⟩⟩⟩
    | shortRead hi hw hr hl =>
      exact ⟨List.mem_cons_of_mem _ hi, .inr ⟨ne_snsStart_of_fetch hi, hw, .inr ⟨_, hr, hl⟩⟩⟩
    | update | read | noResponse => simp [outcomeCode] at hcode
  · rintro ⟨hi, ⟨n, hw⟩ | ⟨hne, hw, ⟨n, hr⟩ | ⟨bs, hr, hl⟩⟩⟩
    · exact ⟨_, .writeFailed hi hw, rfl⟩
    · exact ⟨_, .readFailed (List.mem_of_ne_of_mem hne hi) hw hr, rfl⟩
    · exact ⟨_, .shortRead (List.mem_of_ne_of_mem hne hi) hw hr hl, rfl⟩

theorem raises_accUninitialised_iff : (∃ f, Raises s i f ∧ outcomeCode (some f) = 2) ↔
    s.acc = none ∧ ((∃ b, i = .crcUpdate b) ∨ i = .crcRead) := by
  constructor
  · rintro ⟨f, hf, hcode⟩
    cases hf with
    | update b ha => exact ⟨ha, .inl ⟨b, rfl⟩⟩
    | read ha => exact ⟨ha, .inr rfl⟩
    | writeFailed | readFailed | shortRead | noResponse => simp [outcomeCode] at hcode
  · rintro ⟨ha, ⟨b, rfl⟩ | rfl⟩
    · exact ⟨_, .update b ha, rfl⟩
    · exact ⟨_, .read ha, rfl⟩

theorem raises_noResponse_iff (hwf : i.wf = true) : (∃ f, Raises s i f ∧ outcomeCode (some f) = 3) ↔
    s.bufValid = false ∧ ∃ k, i = .chkWord k := by
  constructor
  · rintro ⟨f, hf, hcode⟩
    cases hf with
    | noResponse _ hv => exact ⟨hv, _, rfl⟩
    | writeFailed | readFailed | shortRead | update | read => simp [outcomeCode] at hcode
  · rintro ⟨hv, k, rfl⟩
    exact ⟨_, .noResponse (wordIndexOk_iff.mp hwf) hv, rfl⟩

/-! ### The obligations -/

/-- Settles O28: the preconditions fail first, CRC.COMPUTE keeps `fault`, and a host bus operation has only
transport faults. -/
theorem preconditionFaults : Obligations.PreconditionFaults := by
  refine ⟨fun s b ha => exec_crcUpdate_of_no_acc ha b, fun s ha => exec_crcRead_of_no_acc ha,
    fun s k hk hv => exec_chkWord_of_no_response hk (.inl hv),
    fun bs s hs => ⟨_, computeReturnsCrc8 bs s hs, (running_iff.mp hs).1⟩, fun i hi s t hs he f hf => ?_⟩
  have hbus : i ∈ hostBusOps := List.cons_subset_cons _ (List.subset_cons_self _ _) hi
  rcases faultIsDue_hostBusOp hbus hs he with hnone | ⟨f', hraises, hf'⟩
  · simp [hnone] at hf
  · cases hf'.symm.trans hf
    exact hraises.transport_of_hostBusOp hbus

/-- A host operation ends with code 0 exactly if it returned an output or hangs. -/
theorem code_eq_zero_iff (hhost : formatOf i = .hostop) (hs : running s = true) (he : exec i s = .next t) :
    outcomeCode t.fault = 0 ↔ (running t = true ∧ ∃ o, t.outputs = s.outputs ++ [o]) ∨
      (t.stuck = true ∧ t.fault = none ∧ t.outputs = s.outputs) := by
  rw [outcomeCode_eq_zero_iff]
  constructor
  · intro hnone
    rcases exec_completes_or_stopsIn hhost hs he with hc | hstop
    · obtain ⟨o, -, hout⟩ := hc.outputs
      exact .inl ⟨hc.running hs, o, hout⟩
    · rcases hstop.ending with ⟨f, -, hf, -⟩ | ⟨-, hst⟩
      · simp [hnone] at hf
      · exact .inr ⟨hst, hnone, hstop.outputs⟩
  · rintro (⟨hrun, -⟩ | ⟨-, hnone, -⟩)
    · exact (running_iff.mp hrun).1
    · exact hnone

/-- Settles O49: a fault of a host operation is one that was due, and each code has its own kinds of those. -/
theorem whoRaisesWhichFault : Obligations.WhoRaisesWhichFault := by
  intro i s t hwf hhost hs hfull he
  have hdue : FaultIsDue s i t := faultIsDue_hostOp hwf hhost (running_iff.mp hs).1 hfull he
  refine ⟨code_eq_zero_iff hhost hs he, (hdue.code_eq_iff he (by decide)).trans raises_transport_iff, fun hcode => ?_,
    (hdue.code_eq_iff he (by decide)).trans raises_accUninitialised_iff, fun hcode => ?_,
    (hdue.code_eq_iff he (by decide)).trans (raises_noResponse_iff hwf), fun hcode => ?_, hdue.code_le_three⟩
  all_goals
    obtain ⟨f, hf, hcode⟩ := (hdue.code_eq_iff he (by decide)).mp hcode
    rw [hf.fault_eq he]
  · cases hf with
    | writeFailed _ hw => exact .inl ⟨_, hw, rfl⟩
    | readFailed hi hw hr => exact .inr ⟨ne_snsStart_of_fetch hi, hw, .inl ⟨_, hr, rfl⟩⟩
    | shortRead hi hw hr hl => exact .inr ⟨ne_snsStart_of_fetch hi, hw, .inr ⟨_, hr, hl, rfl⟩⟩
    | update | read | noResponse => simp [outcomeCode] at hcode
  · cases hf with
    | update b => exact .inl ⟨⟨b, rfl⟩, rfl⟩
    | read => exact .inr ⟨rfl, rfl⟩
    | writeFailed | readFailed | shortRead | noResponse => simp [outcomeCode] at hcode
  · cases hf with
    | noResponse => exact ⟨_, rfl, rfl⟩
    | writeFailed | readFailed | shortRead | update | read => simp [outcomeCode] at hcode

end Sys2Proof.Safety
end

section
/-! What reset leaves, and how long a response stands in the buffer (70_reset_and_hazards.md R115, R122). -/

namespace Sys2Proof.Safety

open Sys2Proof.Machine

variable {i : Instr} {is : List Instr} {s t : State} {bs : List Byte} {k : BitVec 2}

/-! ### Reset (R115) -/

/-- Settles O14: the reset values are read off, and a step starts with no fault recorded. -/
theorem resetState : Obligations.ResetState :=
  ⟨⟨rfl, Memory.read_nil, rfl, rfl, rfl, rfl⟩,
    fun s => ⟨s.resetBlock_acc, Memory.read_nil, s.resetBlock_bufValid, s.resetBlock_trace, s.resetBlock_fault,
      s.resetBlock_pc⟩,
    fun _ _ hfault hstep => hfault (step_cases hstep).1,
    rfl, rfl, rfl, rfl, rfl, rfl, rfl⟩

/-- Settles O15: nothing is recorded yet, and the empty buffer is not valid. -/
theorem invariantHoldsAtReset : Obligations.InvariantHoldsAtReset where
  bufWf := reset_buf_wf
  bufFull := nofun
  bufResponse := nofun
  traceWhole _ := rfl
  traceBroken := rfl
  pcCounts := rfl
  pcInProgram := le_rfl
  faultLegal := nofun
  stuckNoFault := nofun
  outputsLegal := nofun

/-! ### A run of operations -/

/-- What each operation of a run keeps from one running state to the next, the run keeps. -/
theorem execSeq_keeps {P : State → Prop}
    (hkeep : ∀ i ∈ is, ∀ s t, running s = true → exec i s = .next t → running t = true → P s → P t)
    (hs : running s = true) (h : execSeq is s = .next t) (ht : running t = true) (hP : P s) : P t := by
  induction is generalizing s with
  | nil => cases h; exact hP
  | cons i is ih =>
    obtain ⟨u, hu, hrun, hrest⟩ := execSeq_cons_running h ht
    exact ih (fun j hj => hkeep j (List.mem_cons_of_mem i hj)) hrun hrest
      (hkeep i List.mem_cons_self s u hs hu hrun hP)

/-! ### The response in the buffer (R122) -/

/-- The buffer holds this response, which is valid or not (10_state.md R17, R18). -/
structure Buffered (bs : List Byte) (valid : Bool) (s : State) : Prop where
  bytes : ∀ a < 9, Memory.read s.buf a = bs[a]?
  bufValid : s.bufValid = valid

/-- A fetching operation that leaves the block running left its own response in the buffer, valid after SNS.FETCH. -/
theorem buffered_of_fetch (hi : i ∈ fetchOps) (h : exec i s = .next t) (ht : running t = true) :
    ∃ bs : List Byte, bs.length = 9 ∧ t.trace = s.trace ++ [.write 0x62 0xEC05, .read 0x62 9 bs] ∧
      Buffered bs (decide (i = .snsFetch)) t := by
  obtain ⟨g, hg, rfl⟩ := busOp_cases (mem_busOps_of_fetch hi) h
  rcases hg.buffer_of_fetch hi with ⟨bs, hl, heff⟩ | heff
  · obtain ⟨hbuf, htr, -, hvalid⟩ := heff s
    exact ⟨bs, hl, htr, by rw [hbuf]; exact read_fill_of_lt s.buf hl, hvalid⟩
  · obtain ⟨-, hstop, -⟩ := heff s
    simp [hstop] at ht

/-- An operation that fetches nothing keeps the response and its validity. -/
theorem Buffered.of_not_fetch {valid : Bool} (hi : i ∉ fetchOps) (hs : running s = true) (h : exec i s = .next t)
    (hb : Buffered bs valid s) : Buffered bs valid t := by
  obtain ⟨hsame, hvalid⟩ := (whoWritesTheBuffer i s t hs h).1 hi
  exact ⟨fun a ha => (hsame a).trans (hb.bytes a ha), hvalid.trans hb.bufValid⟩

/-- CHK.WORD answers with its word of the response that the valid buffer holds (41_response_parser.md R76). -/
theorem Buffered.exec_chkWord (hk : k ≠ 3) (hl : bs.length = 9) (hb : Buffered bs true s) :
    exec (.chkWord k) s = .next (s.complete (.word (responseWord bs k) (responseValid bs k))) := by
  have hok : wordIndexOk k = true := wordIndexOk_iff.mpr hk
  have hparse : s.parseWord k = (afterFetch s bs).parseWord k :=
    parseWord_congr hok fun a ha => (hb.bytes a ha).trans (afterFetch_read s hl ha).symm
  exact exec_chkWord_of_parse hk hb.bufValid (hparse.trans (parseWord_afterFetch s hok hl))

/-- Only SNS.FETCH makes a buffer valid: an operation that fetches nothing leaves it invalid, and so does a read. -/
theorem bufValid_eq_false_of_ne_snsFetch (hi : i ≠ .snsFetch) (hs : running s = true) (h : exec i s = .next t)
    (ht : running t = true) (hv : s.bufValid = false) : t.bufValid = false := by
  by_cases hf : i ∈ fetchOps
  · obtain ⟨-, hvalid, -⟩ := (whoWritesTheBuffer i s t hs h).2 hf
    exact (hvalid ht).trans (decide_eq_false hi)
  · obtain ⟨-, hvalid⟩ := (whoWritesTheBuffer i s t hs h).1 hf
    exact hvalid.trans hv

/-- Settles O45: what runs in between keeps the fetched response in the buffer, or, after a read, an invalid one. -/
theorem bufferLifetime : Obligations.BufferLifetime := by
  refine ⟨fun s u w k between hk _ hfetch hu hbetween hrun hw => ?_,
    fun s u w k between hk _ r hr hread hu hbetween hrun hw => ?_⟩
  · obtain ⟨bs, hl, htr, hb⟩ := buffered_of_fetch List.mem_cons_self hfetch hu
    have hbw : Buffered bs true w :=
      execSeq_keeps (fun i hi _ _ hs he _ => Buffered.of_not_fetch (hbetween i hi) hs he) hu hrun hw hb
    exact ⟨bs, hl, htr, hbw.exec_chkWord hk hl⟩
  · obtain ⟨bs, hl, htr, hb⟩ := buffered_of_fetch (mem_fetchOps_of_read hr) hread hu
    have hvu : u.bufValid = false := hb.bufValid.trans (decide_eq_false (ne_snsFetch_of_read hr))
    have hvw : w.bufValid = false :=
      execSeq_keeps (fun i hi _ _ => bufValid_eq_false_of_ne_snsFetch (ne_of_mem_of_not_mem hi hbetween))
        hu hrun hw hvu
    exact ⟨⟨bs, hl, htr, hb.bytes⟩, hvu, exec_chkWord_of_no_response hk (.inl hvw)⟩

end Sys2Proof.Safety
end
